-- ==== Sys2Proof/Word.lean ====
section
/-! DEFINITION. The word types of the core: the 32-bit bus word, the byte, the 17-bit byte offset of the window
(00_scope.md R11, 20_memory.md R80). -/

namespace Sys2Proof

/-- A 32-bit bus word, register or command word (R11). -/
abbrev Word := BitVec 32

/-- A byte: a GF(256) element, a codeword, a byte of the stored windows. -/
abbrev Byte := BitVec 8

/-- A 17-bit byte offset in the core's window (R11, R80). -/
abbrev Addr := BitVec 17

end Sys2Proof
end

