-- ==== Sys2Proof/Syntax.lean ====
section
/-! DEFINITION. The commands, one constructor per row of spec/opcode_table.json (30_encoding.md R114), with the
polynomial register operands of format C (R110). Operands in ARG0..ARG2 are state, not syntax (R113). -/

namespace Sys2Proof

/-- The polynomial register indices of the 2-bit fields RD, RA, RB (R110; NPR = 4, R10). -/
inductive PReg where
  | p0
  | p1
  | p2
  | p3
deriving DecidableEq, Repr

/-- The 18 commands (R114); `d`, `a`, `b` are the registers of RD, RA, RB. -/
inductive Instr where
  | nop
  | sreset
  | gfExp
  | gfLog
  | polyMul (d a b : PReg)
  | polyMod (d a b : PReg)
  | polyGen (d : PReg)
  | rsEcc (d a : PReg)
  | bbClear
  | bbPut
  | segWrite
  | build
  | bchFmt
  | bchVer
  | maskBit
  | penalty
  | encode
  | isDark
deriving DecidableEq, Repr

end Sys2Proof
end

