-- ==== Sys2Proof/WellFormed.lean ====
section
/-! DEFINITION. What makes a command word well formed: a word split into the fields of format C (30_encoding.md R110)
and the conditions of R111 on them, given which of RD, RA, RB the opcode uses. A register operand of `Instr` has the
four values of its 2-bit field, so an `Instr` that breaks one of these cannot be written; `Instr.wellFormed` says so of
the fields the encoder gives it. -/

namespace Sys2Proof

/-- The five fields of format C (R110). -/
structure CmdFields where
  /-- bits 7:0 -/
  op : BitVec 8
  /-- bits 9:8 -/
  rd : BitVec 2
  /-- bits 11:10 -/
  ra : BitVec 2
  /-- bits 13:12 -/
  rb : BitVec 2
  /-- bits 31:14, reserved -/
  rsv : BitVec 18
deriving DecidableEq, Repr

/-- The subset of RD, RA, RB an opcode uses (R111, R114). -/
structure FieldUse where
  rd : Bool
  ra : Bool
  rb : Bool
deriving DecidableEq, Repr

/-- "The reserved bits[31:14] must be 0" (R111). -/
def CmdFields.reservedZero (f : CmdFields) : Bool := f.rsv == 0#18

/-- "A field the opcode does not use must be 0" (R111), for RD. -/
def CmdFields.rdOk (u : FieldUse) (f : CmdFields) : Bool := u.rd || f.rd == 0#2

/-- The same for RA. -/
def CmdFields.raOk (u : FieldUse) (f : CmdFields) : Bool := u.ra || f.ra == 0#2

/-- The same for RB. -/
def CmdFields.rbOk (u : FieldUse) (f : CmdFields) : Bool := u.rb || f.rb == 0#2

/-- The conditions of R111 together. -/
def CmdFields.wellFormed (u : FieldUse) (f : CmdFields) : Bool :=
  f.reservedZero && f.rdOk u && f.raOk u && f.rbOk u

end Sys2Proof
end

