-- ==== Sys2Proof/Decode.lean ====
section
/-! DEFINITION. The decoder, total on all 2^32 command words (30_encoding.md R112), and after it the encoder
(R110, R114, R117), both from the field places of R110 and the opcode map of R114. -/

namespace Sys2Proof

/-- Why a word is no legal command (R112, R115); every reason completes with IllegalCommand. -/
inductive Illegal where
  /-- OP is not in the opcode map of R114 -/
  | reservedOpcode
  /-- bits 31:14 are not 0 -/
  | reservedBits
  /-- a field of RD, RA, RB that the opcode does not use is not 0 -/
  | unusedField
deriving DecidableEq, Repr

/-- The fields of a command word (R110). -/
def CmdFields.split (w : Word) : CmdFields where
  op := w.extractLsb' 0 8
  rd := w.extractLsb' 8 2
  ra := w.extractLsb' 10 2
  rb := w.extractLsb' 12 2
  rsv := w.extractLsb' 14 18

/-- The word with the given fields (R110, R117). -/
def CmdFields.pack (f : CmdFields) : Word :=
  f.rsv ++ f.rb ++ f.ra ++ f.rd ++ f.op

/-- The register a 2-bit field names (R110). -/
def PReg.ofBits (b : BitVec 2) : PReg :=
  if b = 0#2 then .p0 else if b = 1#2 then .p1 else if b = 2#2 then .p2 else .p3

/-- The 2-bit field of a register (R117: `p0`–`p3`). -/
def PReg.bits : PReg → BitVec 2
  | .p0 => 0#2
  | .p1 => 1#2
  | .p2 => 2#2
  | .p3 => 3#2

/-- One row of the opcode map of R114: the opcode, the fields it uses, the command with given RD, RA, RB. -/
structure OpRow where
  code : BitVec 8
  use : FieldUse
  make : PReg → PReg → PReg → Instr

/-- No register field is used. -/
def useNone : FieldUse := ⟨false, false, false⟩

/-- The opcode map (R114); the decoder's only source of opcodes. -/
def opTable : List OpRow :=
  [ ⟨0x00#8, useNone, fun _ _ _ => .nop⟩,
    ⟨0x01#8, useNone, fun _ _ _ => .sreset⟩,
    ⟨0x10#8, useNone, fun _ _ _ => .gfExp⟩,
    ⟨0x11#8, useNone, fun _ _ _ => .gfLog⟩,
    ⟨0x12#8, ⟨true, true, true⟩, fun d a b => .polyMul d a b⟩,
    ⟨0x13#8, ⟨true, true, true⟩, fun d a b => .polyMod d a b⟩,
    ⟨0x14#8, ⟨true, false, false⟩, fun d _ _ => .polyGen d⟩,
    ⟨0x15#8, ⟨true, true, false⟩, fun d a _ => .rsEcc d a⟩,
    ⟨0x20#8, useNone, fun _ _ _ => .bbClear⟩,
    ⟨0x21#8, useNone, fun _ _ _ => .bbPut⟩,
    ⟨0x22#8, useNone, fun _ _ _ => .segWrite⟩,
    ⟨0x30#8, useNone, fun _ _ _ => .build⟩,
    ⟨0x31#8, useNone, fun _ _ _ => .bchFmt⟩,
    ⟨0x32#8, useNone, fun _ _ _ => .bchVer⟩,
    ⟨0x33#8, useNone, fun _ _ _ => .maskBit⟩,
    ⟨0x40#8, useNone, fun _ _ _ => .penalty⟩,
    ⟨0x50#8, useNone, fun _ _ _ => .encode⟩,
    ⟨0x51#8, useNone, fun _ _ _ => .isDark⟩ ]

/-- The row of an opcode, if R114 lists it. -/
def opRow (op : BitVec 8) : Option OpRow := opTable.find? (fun r => r.code == op)

/-- The decoder (R112), in the order of that rule's pseudocode. -/
def decode (w : Word) : Except Illegal Instr :=
  let f := CmdFields.split w
  match opRow f.op with
  | none => .error .reservedOpcode
  | some r =>
    if f.reservedZero = false then .error .reservedBits
    else if f.wellFormed r.use = false then .error .unusedField
    else .ok (r.make (.ofBits f.rd) (.ofBits f.ra) (.ofBits f.rb))

/-- The opcode of each command (R114), written a second time for the encoder. -/
def Instr.opcode : Instr → BitVec 8
  | .nop => 0x00#8
  | .sreset => 0x01#8
  | .gfExp => 0x10#8
  | .gfLog => 0x11#8
  | .polyMul _ _ _ => 0x12#8
  | .polyMod _ _ _ => 0x13#8
  | .polyGen _ => 0x14#8
  | .rsEcc _ _ => 0x15#8
  | .bbClear => 0x20#8
  | .bbPut => 0x21#8
  | .segWrite => 0x22#8
  | .build => 0x30#8
  | .bchFmt => 0x31#8
  | .bchVer => 0x32#8
  | .maskBit => 0x33#8
  | .penalty => 0x40#8
  | .encode => 0x50#8
  | .isDark => 0x51#8

/-- The subset of RD, RA, RB each command uses (R114). -/
def Instr.uses : Instr → FieldUse
  | .nop => useNone
  | .sreset => useNone
  | .gfExp => useNone
  | .gfLog => useNone
  | .polyMul _ _ _ => ⟨true, true, true⟩
  | .polyMod _ _ _ => ⟨true, true, true⟩
  | .polyGen _ => ⟨true, false, false⟩
  | .rsEcc _ _ => ⟨true, true, false⟩
  | .bbClear => useNone
  | .bbPut => useNone
  | .segWrite => useNone
  | .build => useNone
  | .bchFmt => useNone
  | .bchVer => useNone
  | .maskBit => useNone
  | .penalty => useNone
  | .encode => useNone
  | .isDark => useNone

/-- The register operands of a command, in the order RD, RA, RB (R117). -/
def Instr.regs : Instr → List PReg
  | .nop => []
  | .sreset => []
  | .gfExp => []
  | .gfLog => []
  | .polyMul d a b => [d, a, b]
  | .polyMod d a b => [d, a, b]
  | .polyGen d => [d]
  | .rsEcc d a => [d, a]
  | .bbClear => []
  | .bbPut => []
  | .segWrite => []
  | .build => []
  | .bchFmt => []
  | .bchVer => []
  | .maskBit => []
  | .penalty => []
  | .encode => []
  | .isDark => []

/-- The 2-bit field of an operand, 0 where the command has none (R111). -/
def PReg.fieldOf : Option PReg → BitVec 2
  | some r => r.bits
  | none => 0#2

/-- The fields of a command: "`OP | d<<8 | a<<10 | b<<12`" (R117), unused and reserved fields 0 (R111). -/
def Instr.fields (i : Instr) : CmdFields where
  op := i.opcode
  rd := PReg.fieldOf i.regs[0]?
  ra := PReg.fieldOf i.regs[1]?
  rb := PReg.fieldOf i.regs[2]?
  rsv := 0#18

/-- The command word of a command (R117). -/
def encode (i : Instr) : Word := i.fields.pack

/-- R111's conditions on the fields of a command. -/
def Instr.wellFormed (i : Instr) : Bool := i.fields.wellFormed i.uses

/-- The instruction the decoder reads from a word given as a number of `nbits` bits, the bits above them 0.
A command word is captured whole in one bus write (R110), so there is no byte order in it. -/
def decodeTableWord (nbits w : Nat) : Option Instr :=
  match decode (BitVec.ofNat 32 (w % 2 ^ nbits)) with
  | .ok i => some i
  | .error _ => none

end Sys2Proof
end

