-- ==== Sys2Proof/Config.lean ====
section
/-! DEFINITION. The implementation parameters of 00_scope.md R10 (log 10), the identity value of 10_state.md R31, and
the one free value of the core (20_memory.md R96, log 5). -/

namespace Sys2Proof.Config

/-- TEXT_CAP: 32-bit words of TEXT (R10). -/
abbrev textCap : Nat := 8192

/-- SEG_CAP: segment descriptors (R10). -/
abbrev segCap : Nat := 64

/-- POLY_MAX: coefficients per polynomial register (R10). -/
abbrev polyMax : Nat := 256

/-- BB_CAP: bits the bit buffer holds (R10). -/
abbrev bbCap : Nat := 23648

/-- CW_CAP: bytes of codeword memory (R10). -/
abbrev cwCap : Nat := 3706

/-- VERSION_MAX (R10); VERSION_MIN is 1. -/
abbrev versionMax : Nat := 40

/-- The value the ID register always reads, the ASCII bytes "QRC1" (R31). -/
abbrev idValue : Word := 0x51524331#32

/-- The value the n-th host read that falls under 20_memory.md R96 returns: "an unspecified 32-bit value ...
Each such read is a free draw, independent of other reads" (93 I-1, log 5). No body: nothing can evaluate it. -/
opaque busyReadValue : Nat → Word

end Sys2Proof.Config
end

