-- ==== Sys2Proof/Machine/State.lean ====
section
/-! DEFINITION. The state of the core (10_state.md R30) as plain data, with the reset state (70_reset_and_hazards.md
R421). The fields after the mark "the model's own" hold the host's pending actions and the values the spec leaves open
(logs 4 to 7). -/

namespace Sys2Proof.Machine

/-- The error codes of STATUS.ERR (60_exceptions.md R380); codes 9–15 are never produced, so no constructor has one. -/
inductive ErrCode where
  /-- 0: the command completed without error -/
  | none
  /-- 1 -/
  | invalidCharacter
  /-- 2 -/
  | codeTooLarge
  /-- 3 -/
  | outOfRange
  /-- 4 -/
  | invalidMaskPattern
  /-- 5 -/
  | gfLogZero
  /-- 6 -/
  | badArgument
  /-- 7 -/
  | resourceLimit
  /-- 8 -/
  | illegalCommand
deriving DecidableEq, Repr

/-- A module of the grid: "tri-state: UNSET, DARK or LIGHT" (R49). -/
inductive GridCell where
  | unset
  | dark
  | light
deriving DecidableEq, Repr

/-- A module grid, row 0 (top) first, column 0 (left) first in each row (00_scope.md R13). -/
abbrev Grid := List (List GridCell)

/-- GRID_STATE (R49). -/
inductive GridState where
  | empty
  | masked
  | committed
deriving DecidableEq, Repr

/-- SEQ (R32). While BUSY it holds the captured command word and, the model's own (log 4), how many host accesses may
still take effect before the command runs. -/
inductive Seq where
  | idle
  | busy (word : Word) (left : Nat)
deriving DecidableEq, Repr

/-- The width of a host access; only `word` is a legal one (20_memory.md R84). -/
inductive Width where
  | byte
  | half
  | word
deriving DecidableEq, Repr

/-- What the outside world can do to the core: the host's reads and writes (R90), and the two edges of the reset input
(R420). The assertion carries the contents the stored windows come up with: "A model takes it as an arbitrary initial
value, a parameter of the reset state" (R421, log 8). -/
inductive BusEvent where
  | read (a : Addr) (w : Width)
  | write (a : Addr) (w : Width) (v : Word)
  | rstAssert (contents : List Host.Cell)
  | rstRelease
deriving DecidableEq, Repr

/-- The core's answer to a host access: a read returns data, a write is taken, or a bus error (R83, R84, R88);
`none` before any access. -/
inductive BusResp where
  | none
  | ok
  | data (v : Word)
  | error
deriving DecidableEq, Repr

/-- The stored windows (PR, SEGDESC, CW, TEXT) by byte offset: offsets strictly rising, no entry equal to what an
unlisted offset reads as (Machine/Ops.lean, logs 1, 2, 9). -/
abbrev Memory := List Host.Cell

/-- The core never stops: a failing command completes with a code in STATUS.ERR (60_exceptions.md R394) and a bus
error is a response that changes nothing (R397). So no fault exists, and none is raised: safe. -/
inductive Fault where
deriving DecidableEq, Repr

/-- Refusals. -/
inductive Refusal where
  /-- Raised by an arm of `exec` for a command that has no meaning yet; safe. No arm of this model does so. -/
  | notModelled (mnemonic : String)
deriving DecidableEq, Repr

/-- Everything the core holds (R30). Views of it (the STATUS word, BB_LEN, `irq`) are in Machine/Flags.lean. -/
structure State where
  /-- CTRL bit 0, IE (R33) -/
  ie : Bool
  /-- SEQ and the captured command word (R32); STATUS.BUSY is its view -/
  seq : Seq
  /-- STATUS.DONE (R34) -/
  done : Bool
  /-- STATUS.OVERRUN (R34) -/
  overrun : Bool
  /-- STATUS.ERR (R34, R380) -/
  err : ErrCode
  /-- ARG0 (R36) -/
  arg0 : Word
  /-- ARG1 (R36) -/
  arg1 : Word
  /-- ARG2 (R36) -/
  arg2 : Word
  /-- RES0 (R37) -/
  res0 : Word
  /-- RES1 (R37) -/
  res1 : Word
  /-- CFG_ECL (R38) -/
  cfgEcl : BitVec 2
  /-- CFG_VERSION (R39) -/
  cfgVersion : BitVec 6
  /-- SEG_COUNT (R40) -/
  segCount : BitVec 7
  /-- MODULECOUNT (R41) -/
  moduleCount : BitVec 8
  /-- SYM_VERSION (R42) -/
  symVersion : BitVec 6
  /-- SYM_MASK (R43) -/
  symMask : BitVec 3
  /-- SYM_ECL (R44) -/
  symEcl : BitVec 2
  /-- CW_LEN (R46) -/
  cwLen : BitVec 12
  /-- PLEN0 (R47) -/
  plen0 : BitVec 9
  /-- PLEN1 (R47) -/
  plen1 : BitVec 9
  /-- PLEN2 (R47) -/
  plen2 : BitVec 9
  /-- PLEN3 (R47) -/
  plen3 : BitVec 9
  /-- PR coefficients (R48), SEGDESC (R52), CW (R51) and TEXT (R53) -/
  mem : Memory
  /-- BB.bits, first appended bit first (R50); BB_LEN is its length (R45) -/
  bb : List Bool
  /-- GRID_STATE (R49) -/
  gridState : GridState
  /-- GRID: the n rows of n modules in use, no row when EMPTY (R49, log 3) -/
  grid : Grid
  /-- the reset input `rst` is asserted (R420); an input, so no command and no reset writes it -/
  rst : Bool
  /-- the model's own: the host's actions still to come, oldest first (log 6) -/
  bus : List BusEvent
  /-- the model's own: the response to the last host access (log 7) -/
  resp : BusResp
  /-- the model's own: LAT of the commands still to be accepted, next first, 0 when the list ends (log 4) -/
  latency : List Nat
  /-- the model's own: how many free values have been drawn (log 5) -/
  draws : Nat
deriving DecidableEq, Repr

/-- The core right after `rst`, its reset input released (R421): every register at the value R421 states, the bit buffer empty, no grid; the
contents R421 leaves unspecified are 0 (DESIGN CHOICE, logs 1, 2), and no host action is pending (logs 4 to 7). -/
def State.reset : State where
  ie := false
  seq := .idle
  done := false
  overrun := false
  err := .none
  arg0 := 0#32
  arg1 := 0#32
  arg2 := 0#32
  res0 := 0#32
  res1 := 0#32
  cfgEcl := 0#2
  cfgVersion := 0#6
  segCount := 0#7
  moduleCount := 0#8
  symVersion := 0#6
  symMask := 0#3
  symEcl := 0#2
  cwLen := 0#12
  plen0 := 1#9
  plen1 := 1#9
  plen2 := 1#9
  plen3 := 1#9
  mem := []
  bb := []
  gridState := .empty
  grid := []
  rst := false
  bus := []
  resp := .none
  latency := []
  draws := 0

end Sys2Proof.Machine
end

