-- ==== Sys2Proof/Machine/Ops.lean ====
section
/-! DEFINITION. The shared operations: the stored windows (20_memory.md R86, R87), the registers a command writes, the
bit buffer, the command cycle of 60_exceptions.md R381 with the one operation that raises an error (R394), and the two
resets (46_control.md R351, 70_reset_and_hazards.md R420, R421). -/

namespace Sys2Proof.Machine

/-! ## The stored windows -/

/-- The bits the byte at offset `a` stores (R86, R87): PR and CW elements bits 7:0 of their word, SEGDESC MODE bits
3:0, SEGDESC START/LEN and TEXT all four bytes of the word; 0 where nothing is stored. -/
def storageMask (a : Nat) : Byte :=
  if 0x10000 ≤ a then (if a < 0x18000 then 0xFF#8 else 0x00#8)
  else if 0x08000 ≤ a then (if a < 0x0B9E8 ∧ a % 4 = 0 then 0xFF#8 else 0x00#8)
  else if 0x02200 ≤ a then 0x00#8
  else if 0x02000 ≤ a then (if a % 8 = 0 then 0x0F#8 else if 4 ≤ a % 8 then 0xFF#8 else 0x00#8)
  else if 0x01000 ≤ a then (if a % 4 = 0 then 0xFF#8 else 0x00#8)
  else 0x00#8

/-- The byte at offset `a`; an unlisted byte reads 0 (logs 1, 2). -/
def Memory.read : Memory → Nat → Byte
  | [], _ => 0#8
  | (k, v) :: t, a => if a = k then v else Memory.read t a

/-- Stores `b` at offset `a` keeping the canonical form: a 0 is not listed. -/
def Memory.set : Memory → Nat → Byte → Memory
  | [], a, b => if b = 0#8 then [] else [(a, b)]
  | (k, v) :: t, a, b =>
    if a < k then (if b = 0#8 then (k, v) :: t else (a, b) :: (k, v) :: t)
    else if a = k then (if b = 0#8 then t else (a, b) :: t)
    else (k, v) :: Memory.set t a b

/-- A write of one byte through the mask of its place (R87). -/
def Memory.write (m : Memory) (a : Nat) (b : Byte) : Memory :=
  Memory.set m a (b &&& storageMask a)

/-- Writes the bytes of a list at `a`, `a + stride`, `a + 2 * stride`, … -/
def Memory.writeList (m : Memory) (a stride : Nat) : List Byte → Memory
  | [] => m
  | b :: bs => Memory.writeList (Memory.write m a b) (a + stride) stride bs

/-- The four bytes at `a` as one word, the lowest offset least significant (log 9). -/
def Memory.readWord (m : Memory) (a : Nat) : Word :=
  m.read (a + 3) ++ m.read (a + 2) ++ m.read (a + 1) ++ m.read a

/-- Writes a word as four bytes, the least significant at the lowest offset (log 9). -/
def Memory.writeWord (m : Memory) (a : Nat) (v : Word) : Memory :=
  Memory.writeList m a 1
    [v.extractLsb' 0 8, v.extractLsb' 8 8, v.extractLsb' 16 8, v.extractLsb' 24 8]

/-- Offsets strictly rise along the list. -/
def Memory.rising : Memory → Bool
  | [] => true
  | [_] => true
  | c :: d :: t => decide (c.1 < d.1) && Memory.rising (d :: t)

/-- An entry a canonical memory may list: not 0, and only bits its place stores. -/
def cellOk (c : Host.Cell) : Bool :=
  c.2 != 0#8 && (c.2 &&& storageMask c.1) == c.2

/-- The canonical form of the stored windows. -/
def Memory.wf (m : Memory) : Bool := Memory.rising m && m.all cellOk

/-- The canonical memory holding the bytes a list gives (of two entries for one place the earlier wins). -/
def Memory.ofCells : List Host.Cell → Memory
  | [] => []
  | c :: t => Memory.write (Memory.ofCells t) c.1 c.2

/-! ## Places in the stored windows (R86) -/

/-- The number k of register PRk. -/
def PReg.index : PReg → Nat
  | .p0 => 0
  | .p1 => 1
  | .p2 => 2
  | .p3 => 3

/-- PR[k].c[i] (R86). -/
def prAddr (k : PReg) (i : Nat) : Nat := 0x01000 + 0x400 * PReg.index k + 4 * i

/-- SEGDESC[s].MODE (R86). -/
def segModeAddr (s : Nat) : Nat := 0x02000 + 8 * s

/-- SEGDESC[s].START, LEN (R86). -/
def segPosAddr (s : Nat) : Nat := 0x02004 + 8 * s

/-- CW[i] (R86). -/
def cwAddr (i : Nat) : Nat := 0x08000 + 4 * i

/-- TEXT[i] (R86). -/
def textAddr (i : Nat) : Nat := 0x10000 + 4 * i

/-- The byte at an offset of the stored windows. -/
abbrev State.byteAt (s : State) (a : Nat) : Byte := s.mem.read a

/-- TEXT[i] (R53). -/
def State.textWord (s : State) (i : Nat) : Word := s.mem.readWord (textAddr i)

/-- SEGDESC[k].MODE (R52). -/
def State.segMode (s : State) (k : Nat) : BitVec 4 := (s.mem.read (segModeAddr k)).extractLsb' 0 4

/-- SEGDESC[k].START, bits 15:0 of its word (R86). -/
def State.segStart (s : State) (k : Nat) : Nat :=
  ((s.mem.readWord (segPosAddr k)).extractLsb' 0 16).toNat

/-- SEGDESC[k].LEN, bits 31:16 of its word (R86). -/
def State.segLen (s : State) (k : Nat) : Nat :=
  ((s.mem.readWord (segPosAddr k)).extractLsb' 16 16).toNat

/-- CW[0..CW_LEN) (R51). -/
def State.codewords (s : State) : List Byte :=
  (List.range s.cwLen.toNat).map (fun i => s.mem.read (cwAddr i))

/-! ## Registers a command writes -/

/-- `x[RES0] <- v`. -/
def State.setRes0 (s : State) (v : Word) : State := { s with res0 := v }

/-- `x[RES1] <- v`. -/
def State.setRes1 (s : State) (v : Word) : State := { s with res1 := v }

/-- PLEN[k] (R47). -/
def State.plen (s : State) : PReg → BitVec 9
  | .p0 => s.plen0
  | .p1 => s.plen1
  | .p2 => s.plen2
  | .p3 => s.plen3

/-- `PLEN[k] <- v`. -/
def State.setPlen (s : State) (k : PReg) (v : BitVec 9) : State :=
  match k with
  | .p0 => { s with plen0 := v }
  | .p1 => { s with plen1 := v }
  | .p2 => { s with plen2 := v }
  | .p3 => { s with plen3 := v }

/-- The stored windows replaced. -/
def State.setMem (s : State) (m : Memory) : State := { s with mem := m }

/-- "Commands write a result polynomial r into register d as `PR[d].c[0..len(r)) <- r; PLEN[d] <- len(r)`, and leave
coefficients at indices ≥ len(r) unchanged" (R48). -/
def State.writePoly (s : State) (d : PReg) (r : List Byte) : State :=
  (s.setMem (s.mem.writeList (prAddr d 0) 4 r)).setPlen d (BitVec.ofNat 9 r.length)

/-- `CW[0..len(out)) <- out; x[CW_LEN] <- len(out)` (43_assembler.md R258, R260). -/
def State.writeCodewords (s : State) (out : List Byte) : State :=
  { s with mem := s.mem.writeList (cwAddr 0) 4 out, cwLen := BitVec.ofNat 12 out.length }

/-! ## The bit buffer -/

/-- The low `w` bits of a number, most significant first (42_segments.md R210). -/
def bitsMsb (value : Nat) : Nat → List Bool
  | 0 => []
  | w + 1 => value.testBit w :: bitsMsb value w

/-- The bit buffer replaced; BB_LEN is its length (R45). -/
def State.setBits (s : State) (bits : List Bool) : State := { s with bb := bits }

/-- The bit buffer emptied, the one way BB_LEN falls outside a reset: BB_CLEAR (42_segments.md R211) and the clear with
which `assemble` begins (43_assembler.md R253, R260; 10_state.md R45, log 20). -/
def State.clearBits (s : State) : State := s.setBits []

/-- Appends bits to the bit buffer: `put` (R210) appends `bitsMsb value w`. -/
def State.appendBits (s : State) (bits : List Bool) : State := s.setBits (s.bb ++ bits)

/-- The number whose bits, most significant first, are the list. -/
def natOfBits (bits : List Bool) : Nat :=
  bits.foldl (fun n b => 2 * n + b.toNat) 0

/-- `BB.byte(i)`: stream bit 8i+k is bit 7−k, "unused tail bits in the last byte are zero", and a byte past the end
is 0 (R50). -/
def bbByte (bits : List Bool) (i : Nat) : Byte :=
  BitVec.ofNat 8 (natOfBits (((bits.drop (8 * i)).take 8 ++ List.replicate 8 false).take 8))

/-! ## The grid registers -/

/-- A grid installed with its registers (44_matrix.md R280, 46_control.md R352): GRID, GRID_STATE, SYM_VERSION,
SYM_MASK, SYM_ECL, and MODULECOUNT = 4v + 17. -/
def State.setGrid (s : State) (g : Grid) (st : GridState) (v m : Nat) (eb : BitVec 2) : State :=
  { s with
    grid := g
    gridState := st
    symVersion := BitVec.ofNat 6 v
    symMask := BitVec.ofNat 3 m
    symEcl := eb
    moduleCount := BitVec.ofNat 8 (4 * v + 17) }

/-- The grid discarded: GRID_STATE ← EMPTY with MODULECOUNT and SYM_* ← 0 (46_control.md R352, R390). -/
def State.dropGrid (s : State) : State :=
  { s with
    grid := []
    gridState := .empty
    symVersion := 0#6
    symMask := 0#3
    symEcl := 0#2
    moduleCount := 0#8 }

/-! ## The command cycle (60_exceptions.md R381) -/

/-- The captured command word, while SEQ = BUSY (R32). -/
def State.captured (s : State) : Option Word :=
  match s.seq with
  | .idle => none
  | .busy w _ => some w

/-- `accept(w)` with `left` host accesses to come before the command runs: DONE ← 0, ERR ← 0, SEQ ← BUSY. -/
def State.capture (s : State) (w : Word) (left : Nat) : State :=
  { s with seq := .busy w left, done := false, err := .none }

/-- `accept(w)` (R381); the delay LAT is the next one of `latency`, 0 when none is left (log 4). -/
def State.accept (s : State) (w : Word) : State :=
  { s.capture w (s.latency.headD 0) with latency := s.latency.tail }

/-- `complete(code)` (R381): ERR ← code, DONE ← 1, BUSY ← 0, SEQ ← IDLE. -/
def State.complete (s : State) (code : ErrCode) : State :=
  { s with seq := .idle, done := true, err := code }

/-- A command that ends without error. -/
def finish (s : State) : Host.Outcome State Fault Refusal := .next (s.complete .none)

/-- `raise E`, the one way an error is taken: the command ends with code E and returns SEQ to IDLE "exactly as on
success" (R381, R394); what else the error's rule writes is already in `s`. -/
def raise (e : ErrCode) (s : State) : Host.Outcome State Fault Refusal := .next (s.complete e)

/-! ## Reset -/

/-- Every register of 10_state.md R31–R47 at its reset value, GRID_STATE ← EMPTY, the bit buffer empty; the stored
windows are kept (46_control.md R351). SEQ, DONE and ERR are among the registers. -/
def State.resetRegisters (s : State) : State :=
  { s with
    ie := false
    seq := .idle
    done := false
    overrun := false
    err := .none
    arg0 := 0#32
    arg1 := 0#32
    arg2 := 0#32
    res0 := 0#32
    res1 := 0#32
    cfgEcl := 0#2
    cfgVersion := 0#6
    segCount := 0#7
    moduleCount := 0#8
    symVersion := 0#6
    symMask := 0#3
    symEcl := 0#2
    cwLen := 0#12
    plen0 := 1#9
    plen1 := 1#9
    plen2 := 1#9
    plen3 := 1#9
    bb := []
    gridState := .empty
    grid := [] }

/-- What the reset input `rst` does (70 R420, R421): the registers at their reset values, a command in flight abandoned,
and the stored windows at the given contents (log 8). -/
def State.hardReset (s : State) (contents : List Host.Cell) : State :=
  s.resetRegisters.setMem (Memory.ofCells contents)

/-- The level of the reset input (R420). -/
def State.setRst (s : State) (level : Bool) : State := { s with rst := level }

/-- The reset input is asserted: the core resets. Asserting it again while it is held changes nothing, so the contents
are "stable" (R421). -/
def State.assertRst (s : State) (contents : List Host.Cell) : State :=
  if s.rst then s else (s.hardReset contents).setRst true

end Sys2Proof.Machine
end

