-- ==== Sys2Proof/Machine/Flags.lean ====
section
/-! DEFINITION. The core's flags and the registers that are views of other state: the STATUS word (10_state.md R34),
its write-1-to-clear, CTRL (R33), BB_LEN (R45) and the output `irq` (R54). No command computes an arithmetic flag
(R57). -/

namespace Sys2Proof.Machine

/-- The 4-bit code of an error (60_exceptions.md R380). -/
def ErrCode.code : ErrCode → BitVec 4
  | .none => 0#4
  | .invalidCharacter => 1#4
  | .codeTooLarge => 2#4
  | .outOfRange => 3#4
  | .invalidMaskPattern => 4#4
  | .gfLogZero => 5#4
  | .badArgument => 6#4
  | .resourceLimit => 7#4
  | .illegalCommand => 8#4

/-- STATUS.BUSY: "1 while SEQ = BUSY" (R34). -/
def State.busy (s : State) : Bool :=
  match s.seq with
  | .idle => false
  | .busy _ _ => true

/-- STATUS.COMMITTED: "1 exactly when GRID_STATE = COMMITTED" (R34). -/
def State.committed (s : State) : Bool := s.gridState == .committed

/-- The STATUS word (R34): ERR in 11:8, COMMITTED 3, OVERRUN 2, DONE 1, BUSY 0, the rest 0. -/
def State.statusWord (s : State) : Word :=
  0#20 ++ s.err.code ++ 0#4 ++ BitVec.ofBool s.committed ++ BitVec.ofBool s.overrun ++
    BitVec.ofBool s.done ++ BitVec.ofBool s.busy

/-- "a 1 in bit 1 clears DONE, a 1 in bit 2 clears OVERRUN, and every other bit written is ignored" (R34). -/
def State.clearFlags (s : State) (v : Word) : State :=
  { s with done := s.done && !v.getLsbD 1, overrun := s.overrun && !v.getLsbD 2 }

/-- The CTRL word: IE in bit 0 (R33). -/
def State.ctrlWord (s : State) : Word := (BitVec.ofBool s.ie).setWidth 32

/-- A write to CTRL stores bit 0 (R33). -/
def State.setCtrl (s : State) (v : Word) : State := { s with ie := v.getLsbD 0 }

/-- A dropped host write sets OVERRUN (20_memory.md R96). -/
def State.setOverrun (s : State) : State := { s with overrun := true }

/-- The level output `irq = CTRL.IE AND STATUS.DONE` (R54). -/
def State.irq (s : State) : Bool := s.ie && s.done

/-- BB_LEN: "`len(BB.bits)`" (R45). -/
abbrev State.bbLen (s : State) : Nat := s.bb.length

end Sys2Proof.Machine
end

