-- ==== Sys2Proof/Machine/Bus.lean ====
section
/-! DEFINITION. The host bus (20_memory.md): the address map (R86, R88), reads and writes through the field masks
(R87, R90), what changes while SEQ = BUSY (R96), and what the reset input does when it is asserted, held and released
(70_reset_and_hazards.md R420). -/

namespace Sys2Proof.Machine

/-- What a mapped word of the window is (R86, R88). -/
inductive Loc where
  | id
  | ctrl
  | status
  | cmd
  | arg0
  | arg1
  | arg2
  | res0
  | res1
  | cfgEcl
  | cfgVersion
  | segCount
  | moduleCount
  | symVersion
  | symMask
  | symEcl
  | bbLen
  | cwLen
  | plen (k : PReg)
  /-- a slot of the register block that holds no register (R88) -/
  | reserved
  | pr (k : PReg) (i : Nat)
  | segMode (s : Nat)
  | segPos (s : Nat)
  | bb (i : Nat)
  | cw (i : Nat)
  | text (i : Nat)
deriving DecidableEq, Repr

/-- The register of index 0..3. -/
def PReg.ofIndex (k : Nat) : PReg :=
  if k = 0 then .p0 else if k = 1 then .p1 else if k = 2 then .p2 else .p3

/-- The registers of the register block by offset; every other word of the block is a reserved slot (R86, R88). -/
def registerMap : List (Nat × Loc) :=
  [ (0x00, .id), (0x04, .ctrl), (0x08, .status), (0x0C, .cmd),
    (0x10, .arg0), (0x14, .arg1), (0x18, .arg2), (0x20, .res0), (0x24, .res1),
    (0x30, .cfgEcl), (0x34, .cfgVersion), (0x38, .segCount),
    (0x40, .moduleCount), (0x44, .symVersion), (0x48, .symMask), (0x4C, .symEcl),
    (0x50, .bbLen), (0x54, .cwLen),
    (0x60, .plen .p0), (0x64, .plen .p1), (0x68, .plen .p2), (0x6C, .plen .p3) ]

/-- The map of R86 on a word-aligned offset; none where R88 gives a bus error. -/
def locAt (a : Nat) : Option Loc :=
  if a < 0x01000 then some ((registerMap.lookup a).getD .reserved)
  else if a < 0x02000 then some (.pr (PReg.ofIndex ((a - 0x01000) / 0x400)) ((a - 0x01000) % 0x400 / 4))
  else if a < 0x02200 then
    some (if a % 8 = 0 then .segMode ((a - 0x02000) / 8) else .segPos ((a - 0x02000) / 8))
  else if a < 0x04000 then none
  else if a < 0x06E30 then some (.bb ((a - 0x04000) / 4))
  else if a < 0x08000 then none
  else if a < 0x0B9E8 then some (.cw ((a - 0x08000) / 4))
  else if a < 0x10000 then none
  else if a < 0x18000 then some (.text ((a - 0x10000) / 4))
  else none

/-- The word an access reaches: a 32-bit access to a word-aligned mapped offset (R83, R84, R88), else none, which is
a bus error. -/
def busLoc (a : Addr) (w : Width) : Option Loc :=
  if w = .word ∧ a.toNat % 4 = 0 then locAt a.toNat else none

/-- `value(a)` (R90): reserved bits, reserved slots and CMD read 0 (R35, R55, R88). -/
def State.readLoc (s : State) : Loc → Word
  | .id => Config.idValue
  | .ctrl => s.ctrlWord
  | .status => s.statusWord
  | .cmd => 0#32
  | .arg0 => s.arg0
  | .arg1 => s.arg1
  | .arg2 => s.arg2
  | .res0 => s.res0
  | .res1 => s.res1
  | .cfgEcl => s.cfgEcl.setWidth 32
  | .cfgVersion => s.cfgVersion.setWidth 32
  | .segCount => s.segCount.setWidth 32
  | .moduleCount => s.moduleCount.setWidth 32
  | .symVersion => s.symVersion.setWidth 32
  | .symMask => s.symMask.setWidth 32
  | .symEcl => s.symEcl.setWidth 32
  | .bbLen => BitVec.ofNat 32 s.bbLen
  | .cwLen => s.cwLen.setWidth 32
  | .plen k => (s.plen k).setWidth 32
  | .reserved => 0#32
  | .pr k i => (s.byteAt (prAddr k i)).setWidth 32
  | .segMode k => (s.segMode k).setWidth 32
  | .segPos k => s.mem.readWord (segPosAddr k)
  | .bb i => (bbByte s.bb i).setWidth 32
  | .cw i => (s.byteAt (cwAddr i)).setWidth 32
  | .text i => s.textWord i

/-- "store v into a through its field mask (read-only and reserved bits ignored)" (R90), for a core that is IDLE; a
write to CMD offers the command (R85), a write to STATUS clears flags (R34). -/
def State.writeLoc (s : State) (v : Word) : Loc → State
  | .id => s
  | .ctrl => s.setCtrl v
  | .status => s.clearFlags v
  | .cmd => s.accept v
  | .arg0 => { s with arg0 := v }
  | .arg1 => { s with arg1 := v }
  | .arg2 => { s with arg2 := v }
  | .res0 => s
  | .res1 => s
  | .cfgEcl => { s with cfgEcl := v.setWidth 2 }
  | .cfgVersion => { s with cfgVersion := v.setWidth 6 }
  | .segCount => { s with segCount := v.setWidth 7 }
  | .moduleCount => s
  | .symVersion => s
  | .symMask => s
  | .symEcl => s
  | .bbLen => s
  | .cwLen => { s with cwLen := v.setWidth 12 }
  | .plen k => s.setPlen k (v.setWidth 9)
  | .reserved => s
  | .pr k i => s.setMem (s.mem.write (prAddr k i) (v.setWidth 8))
  | .segMode k => s.setMem (s.mem.write (segModeAddr k) (v.setWidth 8))
  | .segPos k => s.setMem (s.mem.writeWord (segPosAddr k) v)
  | .bb _ => s
  | .cw i => s.setMem (s.mem.write (cwAddr i) (v.setWidth 8))
  | .text i => s.setMem (s.mem.writeWord (textAddr i) v)

/-- The locations a read returns truly while SEQ = BUSY: "ID, CTRL, STATUS and CMD" (R96). -/
def Loc.readableBusy : Loc → Bool
  | .id | .ctrl | .status | .cmd => true
  | _ => false

/-- The locations a write reaches while SEQ = BUSY: STATUS and CTRL (R96). -/
def Loc.writableBusy : Loc → Bool
  | .ctrl | .status => true
  | _ => false

/-- The response the core drives (log 7). -/
def State.respond (s : State) (r : BusResp) : State := { s with resp := r }

/-- A read of an unspecified value: the next free draw (R96, log 5). -/
def State.drawRead (s : State) : State :=
  { s with resp := .data (Config.busyReadValue s.draws), draws := s.draws + 1 }

/-- `MemRead(a, 4)` (R90), any width (R84). -/
def State.hostRead (s : State) (a : Addr) (w : Width) : State :=
  match busLoc a w with
  | none => s.respond .error
  | some l => if s.busy && !l.readableBusy then s.drawRead else s.respond (.data (s.readLoc l))

/-- `MemWrite(a, 4, v)` (R90), any width (R84); a write dropped while BUSY sets OVERRUN (R96) and is answered as a
write taken (log 19). -/
def State.hostWrite (s : State) (a : Addr) (w : Width) (v : Word) : State :=
  match busLoc a w with
  | none => s.respond .error
  | some l =>
    if s.busy && !l.writableBusy then s.setOverrun.respond .ok else (s.writeLoc v l).respond .ok

/-- A host write while the reset input is held: every item keeps its reset value (70 R420), so nothing is stored and no
command is accepted; the response is the model's choice (log 21). -/
def State.heldWrite (s : State) (a : Addr) (w : Width) : State :=
  match busLoc a w with
  | none => s.respond .error
  | some _ => s.respond .ok

/-- One action of the outside world. -/
def State.busEvent (s : State) : BusEvent → State
  | .read a w => s.hostRead a w
  | .write a w v => if s.rst then s.heldWrite a w else s.hostWrite a w v
  | .rstAssert contents => (s.assertRst contents).respond .none
  | .rstRelease => (s.setRst false).respond .none

/-- The next host action taken off `bus` and performed; while SEQ = BUSY one access fewer remains before the command
runs (log 4). -/
def State.hostTurn (s : State) (e : BusEvent) (rest : List BusEvent) : State :=
  match s.seq with
  | .busy w (n + 1) => { s with bus := rest, seq := .busy w n }.busEvent e
  | _ => { s with bus := rest }.busEvent e

/-- A step while the reset input is held: "every item of the state ... takes the value given in rule R421" (70 R420),
so no command runs, and the next host action, the release included, meets a core at its reset values. -/
def State.heldTurn (s : State) : State :=
  match s.bus with
  | [] => s.resetRegisters
  | e :: rest => { s.resetRegisters with bus := rest }.busEvent e

end Sys2Proof.Machine
end

