-- ==== Sys2Proof/Machine/Operands.lean ====
section
/-! DEFINITION. The operand forms (30_encoding.md R113): ARG registers read unsigned or signed, polynomial registers
read as a raw list or normalised (40_gf_poly.md R142, R154), the level of CFG_ECL (41_tables.md R186) and the range
checks the command rules make on them. -/

namespace Sys2Proof.Machine

/-- An ARG read as "u": `u32(x[ARGi])` (R113). -/
abbrev argU (x : Word) : Nat := x.toNat

/-- An ARG read as "s": `sext_32(x[ARGi])` (R113). -/
abbrev argS (x : Word) : Int := x.toInt

/-- A number written to a result register: `zext_32` (R14). -/
abbrev zext (n : Nat) : Word := BitVec.ofNat 32 n

/-- A polynomial operand's PLEN is legal: 1..256 (10_state.md R47). -/
def State.plenLegal (s : State) (k : PReg) : Bool :=
  decide (1 ≤ (s.plen k).toNat) && decide ((s.plen k).toNat ≤ Config.polyMax)

/-- The raw list `PR[k].c[0..PLEN[k])` (R48). -/
def State.polyRaw (s : State) (k : PReg) : List Byte :=
  (List.range (s.plen k).toNat).map (fun i => s.mem.read (prAddr k i))

/-- `norm(p)` strips leading zero coefficients and keeps at least one coefficient (R142). -/
def norm : List Byte → List Byte
  | [] => []
  | [x] => [x]
  | x :: y :: t => if x = 0#8 then norm (y :: t) else x :: y :: t

/-- A polynomial register read as an operand: `norm(PR[k].c[0..PLEN[k]))` (R142). -/
def State.polyOperand (s : State) (k : PReg) : List Byte := norm (s.polyRaw k)

/-- The error-correction levels (00_scope.md R3). -/
inductive Level where
  | l
  | m
  | q
  | h
deriving DecidableEq, Repr

/-- `eclbits(ecl)` (41_tables.md R186). -/
def Level.bits : Level → BitVec 2
  | .l => 0b01#2
  | .m => 0b00#2
  | .q => 0b11#2
  | .h => 0b10#2

/-- "the level with eclbits(ecl) = eb" (46_control.md R352). -/
def Level.ofBits (eb : BitVec 2) : Level :=
  if eb = Level.bits .l then .l
  else if eb = Level.bits .m then .m
  else if eb = Level.bits .q then .q
  else .h

end Sys2Proof.Machine
end

