-- ==== Sys2Proof/Machine/Tables.lean ====
section
/-! DEFINITION. The core's ROM: the GF(256) EXP and LOG tables as 40_gf_poly.md R140, R141 list them, and the tables of
41_tables.md. The values are the spec's; it marks most of them as general knowledge, not its source's words (log 16).
They are no state (00_scope.md R20). -/

namespace Sys2Proof.Machine

/-! ## GF(256) ROM -/

/-- The EXP ROM (R140), rows 00–70. -/
def expRomLow : List (List Byte) :=
  [ [0x01#8, 0x02#8, 0x04#8, 0x08#8, 0x10#8, 0x20#8, 0x40#8, 0x80#8, 0x1D#8, 0x3A#8, 0x74#8, 0xE8#8, 0xCD#8, 0x87#8, 0x13#8, 0x26#8],
    [0x4C#8, 0x98#8, 0x2D#8, 0x5A#8, 0xB4#8, 0x75#8, 0xEA#8, 0xC9#8, 0x8F#8, 0x03#8, 0x06#8, 0x0C#8, 0x18#8, 0x30#8, 0x60#8, 0xC0#8],
    [0x9D#8, 0x27#8, 0x4E#8, 0x9C#8, 0x25#8, 0x4A#8, 0x94#8, 0x35#8, 0x6A#8, 0xD4#8, 0xB5#8, 0x77#8, 0xEE#8, 0xC1#8, 0x9F#8, 0x23#8],
    [0x46#8, 0x8C#8, 0x05#8, 0x0A#8, 0x14#8, 0x28#8, 0x50#8, 0xA0#8, 0x5D#8, 0xBA#8, 0x69#8, 0xD2#8, 0xB9#8, 0x6F#8, 0xDE#8, 0xA1#8],
    [0x5F#8, 0xBE#8, 0x61#8, 0xC2#8, 0x99#8, 0x2F#8, 0x5E#8, 0xBC#8, 0x65#8, 0xCA#8, 0x89#8, 0x0F#8, 0x1E#8, 0x3C#8, 0x78#8, 0xF0#8],
    [0xFD#8, 0xE7#8, 0xD3#8, 0xBB#8, 0x6B#8, 0xD6#8, 0xB1#8, 0x7F#8, 0xFE#8, 0xE1#8, 0xDF#8, 0xA3#8, 0x5B#8, 0xB6#8, 0x71#8, 0xE2#8],
    [0xD9#8, 0xAF#8, 0x43#8, 0x86#8, 0x11#8, 0x22#8, 0x44#8, 0x88#8, 0x0D#8, 0x1A#8, 0x34#8, 0x68#8, 0xD0#8, 0xBD#8, 0x67#8, 0xCE#8],
    [0x81#8, 0x1F#8, 0x3E#8, 0x7C#8, 0xF8#8, 0xED#8, 0xC7#8, 0x93#8, 0x3B#8, 0x76#8, 0xEC#8, 0xC5#8, 0x97#8, 0x33#8, 0x66#8, 0xCC#8] ]

/-- The EXP ROM (R140), rows 80–F0. -/
def expRomHigh : List (List Byte) :=
  [ [0x85#8, 0x17#8, 0x2E#8, 0x5C#8, 0xB8#8, 0x6D#8, 0xDA#8, 0xA9#8, 0x4F#8, 0x9E#8, 0x21#8, 0x42#8, 0x84#8, 0x15#8, 0x2A#8, 0x54#8],
    [0xA8#8, 0x4D#8, 0x9A#8, 0x29#8, 0x52#8, 0xA4#8, 0x55#8, 0xAA#8, 0x49#8, 0x92#8, 0x39#8, 0x72#8, 0xE4#8, 0xD5#8, 0xB7#8, 0x73#8],
    [0xE6#8, 0xD1#8, 0xBF#8, 0x63#8, 0xC6#8, 0x91#8, 0x3F#8, 0x7E#8, 0xFC#8, 0xE5#8, 0xD7#8, 0xB3#8, 0x7B#8, 0xF6#8, 0xF1#8, 0xFF#8],
    [0xE3#8, 0xDB#8, 0xAB#8, 0x4B#8, 0x96#8, 0x31#8, 0x62#8, 0xC4#8, 0x95#8, 0x37#8, 0x6E#8, 0xDC#8, 0xA5#8, 0x57#8, 0xAE#8, 0x41#8],
    [0x82#8, 0x19#8, 0x32#8, 0x64#8, 0xC8#8, 0x8D#8, 0x07#8, 0x0E#8, 0x1C#8, 0x38#8, 0x70#8, 0xE0#8, 0xDD#8, 0xA7#8, 0x53#8, 0xA6#8],
    [0x51#8, 0xA2#8, 0x59#8, 0xB2#8, 0x79#8, 0xF2#8, 0xF9#8, 0xEF#8, 0xC3#8, 0x9B#8, 0x2B#8, 0x56#8, 0xAC#8, 0x45#8, 0x8A#8, 0x09#8],
    [0x12#8, 0x24#8, 0x48#8, 0x90#8, 0x3D#8, 0x7A#8, 0xF4#8, 0xF5#8, 0xF7#8, 0xF3#8, 0xFB#8, 0xEB#8, 0xCB#8, 0x8B#8, 0x0B#8, 0x16#8],
    [0x2C#8, 0x58#8, 0xB0#8, 0x7D#8, 0xFA#8, 0xE9#8, 0xCF#8, 0x83#8, 0x1B#8, 0x36#8, 0x6C#8, 0xD8#8, 0xAD#8, 0x47#8, 0x8E#8, 0x01#8] ]

/-- The EXP ROM (R140), sixteen rows of sixteen entries. -/
def expRom : List (List Byte) := expRomLow ++ expRomHigh

/-- The LOG ROM (R141); the place of the missing LOG[0] holds 0 and is never read, rows 00–70. -/
def logRomLow : List (List Byte) :=
  [ [0x00#8, 0x00#8, 0x01#8, 0x19#8, 0x02#8, 0x32#8, 0x1A#8, 0xC6#8, 0x03#8, 0xDF#8, 0x33#8, 0xEE#8, 0x1B#8, 0x68#8, 0xC7#8, 0x4B#8],
    [0x04#8, 0x64#8, 0xE0#8, 0x0E#8, 0x34#8, 0x8D#8, 0xEF#8, 0x81#8, 0x1C#8, 0xC1#8, 0x69#8, 0xF8#8, 0xC8#8, 0x08#8, 0x4C#8, 0x71#8],
    [0x05#8, 0x8A#8, 0x65#8, 0x2F#8, 0xE1#8, 0x24#8, 0x0F#8, 0x21#8, 0x35#8, 0x93#8, 0x8E#8, 0xDA#8, 0xF0#8, 0x12#8, 0x82#8, 0x45#8],
    [0x1D#8, 0xB5#8, 0xC2#8, 0x7D#8, 0x6A#8, 0x27#8, 0xF9#8, 0xB9#8, 0xC9#8, 0x9A#8, 0x09#8, 0x78#8, 0x4D#8, 0xE4#8, 0x72#8, 0xA6#8],
    [0x06#8, 0xBF#8, 0x8B#8, 0x62#8, 0x66#8, 0xDD#8, 0x30#8, 0xFD#8, 0xE2#8, 0x98#8, 0x25#8, 0xB3#8, 0x10#8, 0x91#8, 0x22#8, 0x88#8],
    [0x36#8, 0xD0#8, 0x94#8, 0xCE#8, 0x8F#8, 0x96#8, 0xDB#8, 0xBD#8, 0xF1#8, 0xD2#8, 0x13#8, 0x5C#8, 0x83#8, 0x38#8, 0x46#8, 0x40#8],
    [0x1E#8, 0x42#8, 0xB6#8, 0xA3#8, 0xC3#8, 0x48#8, 0x7E#8, 0x6E#8, 0x6B#8, 0x3A#8, 0x28#8, 0x54#8, 0xFA#8, 0x85#8, 0xBA#8, 0x3D#8],
    [0xCA#8, 0x5E#8, 0x9B#8, 0x9F#8, 0x0A#8, 0x15#8, 0x79#8, 0x2B#8, 0x4E#8, 0xD4#8, 0xE5#8, 0xAC#8, 0x73#8, 0xF3#8, 0xA7#8, 0x57#8] ]

/-- The LOG ROM (R141); the place of the missing LOG[0] holds 0 and is never read, rows 80–F0. -/
def logRomHigh : List (List Byte) :=
  [ [0x07#8, 0x70#8, 0xC0#8, 0xF7#8, 0x8C#8, 0x80#8, 0x63#8, 0x0D#8, 0x67#8, 0x4A#8, 0xDE#8, 0xED#8, 0x31#8, 0xC5#8, 0xFE#8, 0x18#8],
    [0xE3#8, 0xA5#8, 0x99#8, 0x77#8, 0x26#8, 0xB8#8, 0xB4#8, 0x7C#8, 0x11#8, 0x44#8, 0x92#8, 0xD9#8, 0x23#8, 0x20#8, 0x89#8, 0x2E#8],
    [0x37#8, 0x3F#8, 0xD1#8, 0x5B#8, 0x95#8, 0xBC#8, 0xCF#8, 0xCD#8, 0x90#8, 0x87#8, 0x97#8, 0xB2#8, 0xDC#8, 0xFC#8, 0xBE#8, 0x61#8],
    [0xF2#8, 0x56#8, 0xD3#8, 0xAB#8, 0x14#8, 0x2A#8, 0x5D#8, 0x9E#8, 0x84#8, 0x3C#8, 0x39#8, 0x53#8, 0x47#8, 0x6D#8, 0x41#8, 0xA2#8],
    [0x1F#8, 0x2D#8, 0x43#8, 0xD8#8, 0xB7#8, 0x7B#8, 0xA4#8, 0x76#8, 0xC4#8, 0x17#8, 0x49#8, 0xEC#8, 0x7F#8, 0x0C#8, 0x6F#8, 0xF6#8],
    [0x6C#8, 0xA1#8, 0x3B#8, 0x52#8, 0x29#8, 0x9D#8, 0x55#8, 0xAA#8, 0xFB#8, 0x60#8, 0x86#8, 0xB1#8, 0xBB#8, 0xCC#8, 0x3E#8, 0x5A#8],
    [0xCB#8, 0x59#8, 0x5F#8, 0xB0#8, 0x9C#8, 0xA9#8, 0xA0#8, 0x51#8, 0x0B#8, 0xF5#8, 0x16#8, 0xEB#8, 0x7A#8, 0x75#8, 0x2C#8, 0xD7#8],
    [0x4F#8, 0xAE#8, 0xD5#8, 0xE9#8, 0xE6#8, 0xE7#8, 0xAD#8, 0xE8#8, 0x74#8, 0xD6#8, 0xF4#8, 0xEA#8, 0xA8#8, 0x50#8, 0x58#8, 0xAF#8] ]

/-- The LOG ROM (R141); the place of the missing LOG[0] holds 0 and is never read, sixteen rows of sixteen entries. -/
def logRom : List (List Byte) := logRomLow ++ logRomHigh

/-- The entry a table of sixteen rows of sixteen holds for a byte index. -/
def romAt (rom : List (List Byte)) (i : Nat) : Byte := (rom.getD (i / 16) []).getD (i % 16) 0#8

/-! ## Segment modes (R181, R182) -/

/-- The four segment modes (00_scope.md R3). -/
inductive Mode where
  | numeric
  | alphanumeric
  | byte
  | kanji
deriving DecidableEq, Repr

/-- The "4-bit mode indicator" (R181), also the legal SEGDESC MODE value (10_state.md R52). -/
def Mode.indicator : Mode → BitVec 4
  | .numeric => 0b0001#4
  | .alphanumeric => 0b0010#4
  | .byte => 0b0100#4
  | .kanji => 0b1000#4

/-- The mode of a SEGDESC MODE field; "every other value is illegal" (R52). -/
def Mode.ofBits (b : BitVec 4) : Option Mode :=
  if b = Mode.indicator .numeric then some .numeric
  else if b = Mode.indicator .alphanumeric then some .alphanumeric
  else if b = Mode.indicator .byte then some .byte
  else if b = Mode.indicator .kanji then some .kanji
  else none

/-- `lenw(mode, v)`, the width of the character-count field (R182). -/
def lenw (mode : Mode) (v : Nat) : Nat :=
  match mode with
  | .numeric => if v ≤ 9 then 10 else if v ≤ 26 then 12 else 14
  | .alphanumeric => if v ≤ 9 then 9 else if v ≤ 26 then 11 else 13
  | .byte => if v ≤ 9 then 8 else 16
  | .kanji => if v ≤ 9 then 8 else if v ≤ 26 then 10 else 12

/-! ## Reed-Solomon blocks (R183, R184) -/

/-- `c×(t,d)`: c consecutive blocks of t total and d data codewords (R183). -/
structure BlockGroup where
  count : Nat
  total : Nat
  data : Nat
deriving DecidableEq, Repr

/-- One version's row of the table of R183. -/
structure BlockRow where
  l : List BlockGroup
  m : List BlockGroup
  q : List BlockGroup
  h : List BlockGroup
deriving DecidableEq, Repr

/-- The table of R183, versions 1–10. -/
def blockRows1 : List BlockRow :=
  [ ⟨[⟨1, 26, 19⟩], [⟨1, 26, 16⟩], [⟨1, 26, 13⟩], [⟨1, 26, 9⟩]⟩,
    ⟨[⟨1, 44, 34⟩], [⟨1, 44, 28⟩], [⟨1, 44, 22⟩], [⟨1, 44, 16⟩]⟩,
    ⟨[⟨1, 70, 55⟩], [⟨1, 70, 44⟩], [⟨2, 35, 17⟩], [⟨2, 35, 13⟩]⟩,
    ⟨[⟨1, 100, 80⟩], [⟨2, 50, 32⟩], [⟨2, 50, 24⟩], [⟨4, 25, 9⟩]⟩,
    ⟨[⟨1, 134, 108⟩], [⟨2, 67, 43⟩], [⟨2, 33, 15⟩, ⟨2, 34, 16⟩], [⟨2, 33, 11⟩, ⟨2, 34, 12⟩]⟩,
    ⟨[⟨2, 86, 68⟩], [⟨4, 43, 27⟩], [⟨4, 43, 19⟩], [⟨4, 43, 15⟩]⟩,
    ⟨[⟨2, 98, 78⟩], [⟨4, 49, 31⟩], [⟨2, 32, 14⟩, ⟨4, 33, 15⟩], [⟨4, 39, 13⟩, ⟨1, 40, 14⟩]⟩,
    ⟨[⟨2, 121, 97⟩], [⟨2, 60, 38⟩, ⟨2, 61, 39⟩], [⟨4, 40, 18⟩, ⟨2, 41, 19⟩], [⟨4, 40, 14⟩, ⟨2, 41, 15⟩]⟩,
    ⟨[⟨2, 146, 116⟩], [⟨3, 58, 36⟩, ⟨2, 59, 37⟩], [⟨4, 36, 16⟩, ⟨4, 37, 17⟩], [⟨4, 36, 12⟩, ⟨4, 37, 13⟩]⟩,
    ⟨[⟨2, 86, 68⟩, ⟨2, 87, 69⟩], [⟨4, 69, 43⟩, ⟨1, 70, 44⟩], [⟨6, 43, 19⟩, ⟨2, 44, 20⟩], [⟨6, 43, 15⟩, ⟨2, 44, 16⟩]⟩ ]

/-- The table of R183, versions 11–20. -/
def blockRows11 : List BlockRow :=
  [ ⟨[⟨4, 101, 81⟩], [⟨1, 80, 50⟩, ⟨4, 81, 51⟩], [⟨4, 50, 22⟩, ⟨4, 51, 23⟩], [⟨3, 36, 12⟩, ⟨8, 37, 13⟩]⟩,
    ⟨[⟨2, 116, 92⟩, ⟨2, 117, 93⟩], [⟨6, 58, 36⟩, ⟨2, 59, 37⟩], [⟨4, 46, 20⟩, ⟨6, 47, 21⟩], [⟨7, 42, 14⟩, ⟨4, 43, 15⟩]⟩,
    ⟨[⟨4, 133, 107⟩], [⟨8, 59, 37⟩, ⟨1, 60, 38⟩], [⟨8, 44, 20⟩, ⟨4, 45, 21⟩], [⟨12, 33, 11⟩, ⟨4, 34, 12⟩]⟩,
    ⟨[⟨3, 145, 115⟩, ⟨1, 146, 116⟩], [⟨4, 64, 40⟩, ⟨5, 65, 41⟩], [⟨11, 36, 16⟩, ⟨5, 37, 17⟩], [⟨11, 36, 12⟩, ⟨5, 37, 13⟩]⟩,
    ⟨[⟨5, 109, 87⟩, ⟨1, 110, 88⟩], [⟨5, 65, 41⟩, ⟨5, 66, 42⟩], [⟨5, 54, 24⟩, ⟨7, 55, 25⟩], [⟨11, 36, 12⟩, ⟨7, 37, 13⟩]⟩,
    ⟨[⟨5, 122, 98⟩, ⟨1, 123, 99⟩], [⟨7, 73, 45⟩, ⟨3, 74, 46⟩], [⟨15, 43, 19⟩, ⟨2, 44, 20⟩], [⟨3, 45, 15⟩, ⟨13, 46, 16⟩]⟩,
    ⟨[⟨1, 135, 107⟩, ⟨5, 136, 108⟩], [⟨10, 74, 46⟩, ⟨1, 75, 47⟩], [⟨1, 50, 22⟩, ⟨15, 51, 23⟩], [⟨2, 42, 14⟩, ⟨17, 43, 15⟩]⟩,
    ⟨[⟨5, 150, 120⟩, ⟨1, 151, 121⟩], [⟨9, 69, 43⟩, ⟨4, 70, 44⟩], [⟨17, 50, 22⟩, ⟨1, 51, 23⟩], [⟨2, 42, 14⟩, ⟨19, 43, 15⟩]⟩,
    ⟨[⟨3, 141, 113⟩, ⟨4, 142, 114⟩], [⟨3, 70, 44⟩, ⟨11, 71, 45⟩], [⟨17, 47, 21⟩, ⟨4, 48, 22⟩], [⟨9, 39, 13⟩, ⟨16, 40, 14⟩]⟩,
    ⟨[⟨3, 135, 107⟩, ⟨5, 136, 108⟩], [⟨3, 67, 41⟩, ⟨13, 68, 42⟩], [⟨15, 54, 24⟩, ⟨5, 55, 25⟩], [⟨15, 43, 15⟩, ⟨10, 44, 16⟩]⟩ ]

/-- The table of R183, versions 21–30. -/
def blockRows21 : List BlockRow :=
  [ ⟨[⟨4, 144, 116⟩, ⟨4, 145, 117⟩], [⟨17, 68, 42⟩], [⟨17, 50, 22⟩, ⟨6, 51, 23⟩], [⟨19, 46, 16⟩, ⟨6, 47, 17⟩]⟩,
    ⟨[⟨2, 139, 111⟩, ⟨7, 140, 112⟩], [⟨17, 74, 46⟩], [⟨7, 54, 24⟩, ⟨16, 55, 25⟩], [⟨34, 37, 13⟩]⟩,
    ⟨[⟨4, 151, 121⟩, ⟨5, 152, 122⟩], [⟨4, 75, 47⟩, ⟨14, 76, 48⟩], [⟨11, 54, 24⟩, ⟨14, 55, 25⟩], [⟨16, 45, 15⟩, ⟨14, 46, 16⟩]⟩,
    ⟨[⟨6, 147, 117⟩, ⟨4, 148, 118⟩], [⟨6, 73, 45⟩, ⟨14, 74, 46⟩], [⟨11, 54, 24⟩, ⟨16, 55, 25⟩], [⟨30, 46, 16⟩, ⟨2, 47, 17⟩]⟩,
    ⟨[⟨8, 132, 106⟩, ⟨4, 133, 107⟩], [⟨8, 75, 47⟩, ⟨13, 76, 48⟩], [⟨7, 54, 24⟩, ⟨22, 55, 25⟩], [⟨22, 45, 15⟩, ⟨13, 46, 16⟩]⟩,
    ⟨[⟨10, 142, 114⟩, ⟨2, 143, 115⟩], [⟨19, 74, 46⟩, ⟨4, 75, 47⟩], [⟨28, 50, 22⟩, ⟨6, 51, 23⟩], [⟨33, 46, 16⟩, ⟨4, 47, 17⟩]⟩,
    ⟨[⟨8, 152, 122⟩, ⟨4, 153, 123⟩], [⟨22, 73, 45⟩, ⟨3, 74, 46⟩], [⟨8, 53, 23⟩, ⟨26, 54, 24⟩], [⟨12, 45, 15⟩, ⟨28, 46, 16⟩]⟩,
    ⟨[⟨3, 147, 117⟩, ⟨10, 148, 118⟩], [⟨3, 73, 45⟩, ⟨23, 74, 46⟩], [⟨4, 54, 24⟩, ⟨31, 55, 25⟩], [⟨11, 45, 15⟩, ⟨31, 46, 16⟩]⟩,
    ⟨[⟨7, 146, 116⟩, ⟨7, 147, 117⟩], [⟨21, 73, 45⟩, ⟨7, 74, 46⟩], [⟨1, 53, 23⟩, ⟨37, 54, 24⟩], [⟨19, 45, 15⟩, ⟨26, 46, 16⟩]⟩,
    ⟨[⟨5, 145, 115⟩, ⟨10, 146, 116⟩], [⟨19, 75, 47⟩, ⟨10, 76, 48⟩], [⟨15, 54, 24⟩, ⟨25, 55, 25⟩], [⟨23, 45, 15⟩, ⟨25, 46, 16⟩]⟩ ]

/-- The table of R183, versions 31–40. -/
def blockRows31 : List BlockRow :=
  [ ⟨[⟨13, 145, 115⟩, ⟨3, 146, 116⟩], [⟨2, 74, 46⟩, ⟨29, 75, 47⟩], [⟨42, 54, 24⟩, ⟨1, 55, 25⟩], [⟨23, 45, 15⟩, ⟨28, 46, 16⟩]⟩,
    ⟨[⟨17, 145, 115⟩], [⟨10, 74, 46⟩, ⟨23, 75, 47⟩], [⟨10, 54, 24⟩, ⟨35, 55, 25⟩], [⟨19, 45, 15⟩, ⟨35, 46, 16⟩]⟩,
    ⟨[⟨17, 145, 115⟩, ⟨1, 146, 116⟩], [⟨14, 74, 46⟩, ⟨21, 75, 47⟩], [⟨29, 54, 24⟩, ⟨19, 55, 25⟩], [⟨11, 45, 15⟩, ⟨46, 46, 16⟩]⟩,
    ⟨[⟨13, 145, 115⟩, ⟨6, 146, 116⟩], [⟨14, 74, 46⟩, ⟨23, 75, 47⟩], [⟨44, 54, 24⟩, ⟨7, 55, 25⟩], [⟨59, 46, 16⟩, ⟨1, 47, 17⟩]⟩,
    ⟨[⟨12, 151, 121⟩, ⟨7, 152, 122⟩], [⟨12, 75, 47⟩, ⟨26, 76, 48⟩], [⟨39, 54, 24⟩, ⟨14, 55, 25⟩], [⟨22, 45, 15⟩, ⟨41, 46, 16⟩]⟩,
    ⟨[⟨6, 151, 121⟩, ⟨14, 152, 122⟩], [⟨6, 75, 47⟩, ⟨34, 76, 48⟩], [⟨46, 54, 24⟩, ⟨10, 55, 25⟩], [⟨2, 45, 15⟩, ⟨64, 46, 16⟩]⟩,
    ⟨[⟨17, 152, 122⟩, ⟨4, 153, 123⟩], [⟨29, 74, 46⟩, ⟨14, 75, 47⟩], [⟨49, 54, 24⟩, ⟨10, 55, 25⟩], [⟨24, 45, 15⟩, ⟨46, 46, 16⟩]⟩,
    ⟨[⟨4, 152, 122⟩, ⟨18, 153, 123⟩], [⟨13, 74, 46⟩, ⟨32, 75, 47⟩], [⟨48, 54, 24⟩, ⟨14, 55, 25⟩], [⟨42, 45, 15⟩, ⟨32, 46, 16⟩]⟩,
    ⟨[⟨20, 147, 117⟩, ⟨4, 148, 118⟩], [⟨40, 75, 47⟩, ⟨7, 76, 48⟩], [⟨43, 54, 24⟩, ⟨22, 55, 25⟩], [⟨10, 45, 15⟩, ⟨67, 46, 16⟩]⟩,
    ⟨[⟨19, 148, 118⟩, ⟨6, 149, 119⟩], [⟨18, 75, 47⟩, ⟨31, 76, 48⟩], [⟨34, 54, 24⟩, ⟨34, 55, 25⟩], [⟨20, 45, 15⟩, ⟨61, 46, 16⟩]⟩ ]

/-- The table of R183, version 1 first. -/
def blockRows : List BlockRow := blockRows1 ++ blockRows11 ++ blockRows21 ++ blockRows31

/-- The row's entry for a level. -/
def BlockRow.at (r : BlockRow) : Level → List BlockGroup
  | .l => r.l
  | .m => r.m
  | .q => r.q
  | .h => r.h

/-- The groups of blocks of version `v` and a level (R183); none outside 1..40. -/
def blockGroups (v : Nat) (ecl : Level) : List BlockGroup :=
  if v = 0 then [] else ((blockRows[v - 1]?).map (fun r => r.at ecl)).getD []

/-- `rsblocks(v, ecl)`: the ordered list of (total, data) codeword counts, "c consecutive blocks" for each group (R183). -/
def rsblocks (v : Nat) (ecl : Level) : List (Nat × Nat) :=
  (blockGroups v ecl).flatMap (fun g => List.replicate g.count (g.total, g.data))

/-- `datacw(v, ecl) = Σ d` (R184). -/
def datacw (v : Nat) (ecl : Level) : Nat := ((rsblocks v ecl).map Prod.snd).sum

/-- `capbits(v, ecl) = 8 × datacw(v, ecl)` (R184). -/
def capbits (v : Nat) (ecl : Level) : Nat := 8 * datacw v ecl

/-- `totalcw(v) = Σ t` over `rsblocks(v, ecl)`, "the same for all four levels" (R184). -/
def totalcw (v : Nat) (ecl : Level) : Nat := ((rsblocks v ecl).map Prod.fst).sum

/-! ## Alignment positions (R187) -/

/-- The table of R187, versions 1–20. -/
def alignRows1 : List (List Nat) :=
  [ [],
    [6, 18],
    [6, 22],
    [6, 26],
    [6, 30],
    [6, 34],
    [6, 22, 38],
    [6, 24, 42],
    [6, 26, 46],
    [6, 28, 50],
    [6, 30, 54],
    [6, 32, 58],
    [6, 34, 62],
    [6, 26, 46, 66],
    [6, 26, 48, 70],
    [6, 26, 50, 74],
    [6, 30, 54, 78],
    [6, 30, 56, 82],
    [6, 30, 58, 86],
    [6, 34, 62, 90] ]

/-- The table of R187, versions 21–40. -/
def alignRows21 : List (List Nat) :=
  [ [6, 28, 50, 72, 94],
    [6, 26, 50, 74, 98],
    [6, 30, 54, 78, 102],
    [6, 28, 54, 80, 106],
    [6, 32, 58, 84, 110],
    [6, 30, 58, 86, 114],
    [6, 34, 62, 90, 118],
    [6, 26, 50, 74, 98, 122],
    [6, 30, 54, 78, 102, 126],
    [6, 26, 52, 78, 104, 130],
    [6, 30, 56, 82, 108, 134],
    [6, 34, 60, 86, 112, 138],
    [6, 30, 58, 86, 114, 142],
    [6, 34, 62, 90, 118, 146],
    [6, 30, 54, 78, 102, 126, 150],
    [6, 24, 50, 76, 102, 128, 154],
    [6, 28, 54, 80, 106, 132, 158],
    [6, 32, 58, 84, 110, 136, 162],
    [6, 26, 54, 82, 110, 138, 166],
    [6, 30, 58, 86, 114, 142, 170] ]

/-- `alignpos(v)` (R187). -/
def alignpos (v : Nat) : List Nat :=
  if v = 0 then [] else (alignRows1 ++ alignRows21).getD (v - 1) []

/-! ## Characters and constants (R188 to R192) -/

/-- The 45 code points of the Alphanumeric set in the order of the string of R188: digits, A–Z, space $ % * + - . / : -/
def alnumSet : List Nat :=
  [0x30, 0x31, 0x32, 0x33, 0x34, 0x35, 0x36, 0x37, 0x38, 0x39, 0x41, 0x42, 0x43, 0x44, 0x45,
   0x46, 0x47, 0x48, 0x49, 0x4A, 0x4B, 0x4C, 0x4D, 0x4E, 0x4F, 0x50, 0x51, 0x52, 0x53, 0x54,
   0x55, 0x56, 0x57, 0x58, 0x59, 0x5A, 0x20, 0x24, 0x25, 0x2A, 0x2B, 0x2D, 0x2E, 0x2F, 0x3A]

/-- `acode(c)`: the index in that string (R188). -/
def acode (c : Nat) : Nat := alnumSet.idxOf c

/-- `kval(k)` (R189, 42_segments.md R224). -/
def kval (k : Nat) : Nat :=
  let k' := if k ≤ 0x9FFC then k - 0x8140 else k - 0xC140
  (k' >>> 8) * 0xC0 + (k' &&& 0xFF)

/-- G15, the format generator (R190). -/
def g15 : Nat := 0x537

/-- FMT_MASK, the format mask constant (R190). -/
def fmtMask : Nat := 0x5412

/-- G18, the version generator (R190). -/
def g18 : Nat := 0x1F25

/-- The pad bytes "alternate `0xEC`, `0x11`, starting with 0xEC" (R191): the k-th of them. -/
def padByte (k : Nat) : Nat := if k % 2 = 0 then 0xEC else 0x11

/-- The Byte-mode BOM (R192). -/
def bom : List Nat := [0xEF, 0xBB, 0xBF]

end Sys2Proof.Machine
end

