-- ==== Sys2Proof/Machine/GfPoly.lean ====
section
/-! DEFINITION. The GF(256) and polynomial unit (40_gf_poly.md): `exp`, `log`, `pmul`, `pmod`, `gen`, `rs_ecc` and the
commands GF_EXP, GF_LOG, POLY_MUL, POLY_MOD, POLY_GEN, RS_ECC. A function that can raise an error answers
`Except ErrCode`. -/

namespace Sys2Proof.Machine

/-! ## Field functions -/

/-- `exp(n)` "for any integer n is `EXP[n mod 255]`" (R143). -/
def gfExp (n : Int) : Byte := romAt expRom (n % 255).toNat

/-- `log(n)` (R144): GfLogZero below 1, BadArgument above 255, else LOG[n]. -/
def gfLog (n : Int) : Except ErrCode Nat :=
  if n < 1 then .error .gfLogZero
  else if 255 < n then .error .badArgument
  else .ok (romAt logRom n.toNat).toNat

/-- `log` of a coefficient: "Inside the polynomial functions n is always a byte" (R144). -/
def byteLog (b : Byte) : Except ErrCode Nat := gfLog (b.toNat : Int)

/-! ## Polynomials -/

/-- Every coefficient times α^e through logs: `exp(log(p_i) + e)`; a zero coefficient raises GfLogZero (R147, R149). -/
def scale (e : Int) : List Byte → Except ErrCode (List Byte)
  | [] => .ok []
  | x :: xs => do
    let l ← byteLog x
    let r ← scale e xs
    .ok (gfExp (l + e) :: r)

/-- Adds (XORs, R140) a list to another from the head on; the rest of the first stays. -/
def xorInto : List Byte → List Byte → List Byte
  | [], _ => []
  | x :: xs, [] => x :: xs
  | x :: xs, y :: ys => (x ^^^ y) :: xorInto xs ys

/-- The convolution of `pmul` (R147), row by row: coefficient i of `a` adds `a_i · b` at offset i. -/
def convolve : List Byte → List Byte → Except ErrCode (List Byte)
  | [], b => .ok (List.replicate (b.length - 1) 0#8)
  | x :: a, b => do
    let l ← byteLog x
    let row ← scale l b
    let rest ← convolve a b
    .ok (xorInto (0#8 :: rest) row)

/-- `pmul(a, b)` (R147). -/
def pmul (a b : List Byte) : Except ErrCode (List Byte) := do
  let r ← convolve a b
  .ok (norm r)

/-- One pass of the long division of `pmod` (R149). -/
def pmodStep (a b : List Byte) : Except ErrCode (List Byte) := do
  let la ← byteLog (a.headD 0#8)
  let lb ← byteLog (b.headD 0#8)
  let row ← scale ((la : Int) - (lb : Int)) b
  .ok (norm (xorInto a row))

/-- The loop of `pmod` (R149), at most `fuel` passes (log 12). -/
def pmodLoop : Nat → List Byte → List Byte → Except ErrCode (List Byte)
  | 0, a, _ => .ok a
  | fuel + 1, a, b =>
    if a.length < b.length then .ok a
    else do
      let t ← pmodStep a b
      pmodLoop fuel t b

/-- `pmod(a, b)` (R149): every pass but one on a dividend of one coefficient shortens it, so `len(a) + 1` passes reach
the end of the loop (log 12). -/
def pmod (a b : List Byte) : Except ErrCode (List Byte) := pmodLoop (a.length + 1) a b

/-- `gen(e)` = Π [1, exp(i)] for i in 0..e−1, "left to right from [1]" (R151). -/
def gen : Nat → Except ErrCode (List Byte)
  | 0 => .ok [1#8]
  | e + 1 => do
    let g ← gen e
    pmul g [1#8, gfExp (e : Int)]

/-- The last `e` entries of a list, zeros on the left when it is shorter: `out` of `rs_ecc` (R153). -/
def padLeft (e : Nat) (r : List Byte) : List Byte := (List.replicate e 0#8 ++ r).drop r.length

/-- `rs_ecc(D, e)` = the remainder of D(x)·x^e by gen(e), as e bytes (R153, 90_conflicts.md C1, C5). -/
def rsEcc (d : List Byte) (e : Nat) : Except ErrCode (List Byte) := do
  let g ← gen e
  let r ← pmod (norm (d ++ List.replicate e 0#8)) g
  .ok (padLeft e r)

/-! ## Commands -/

/-- GF_EXP (R145). -/
def execGfExp (s : State) : Host.Outcome State Fault Refusal :=
  finish (s.setRes0 (zext (gfExp (argS s.arg0)).toNat))

/-- GF_LOG (R146). -/
def execGfLog (s : State) : Host.Outcome State Fault Refusal :=
  match gfLog (argS s.arg0) with
  | .error e => raise e s
  | .ok n => finish (s.setRes0 (zext n))

/-- The polynomial result of a command into PR[RD], or its error with PR[RD] and PLEN[RD] unchanged (R148, R150,
R152, R154). -/
def finishPoly (d : PReg) (r : Except ErrCode (List Byte)) (s : State) : Host.Outcome State Fault Refusal :=
  match r with
  | .error e => raise e s
  | .ok p => finish (s.writePoly d p)

/-- POLY_MUL's result (R148): BadArgument, then ResourceLimit, then GfLogZero. -/
def polyMulResult (a b : PReg) (s : State) : Except ErrCode (List Byte) :=
  if !s.plenLegal a || !s.plenLegal b then .error .badArgument
  else if Config.polyMax < (s.polyOperand a).length + (s.polyOperand b).length - 1 then .error .resourceLimit
  else pmul (s.polyOperand a) (s.polyOperand b)

/-- POLY_MUL pd, pa, pb (R148). -/
def execPolyMul (d a b : PReg) (s : State) : Host.Outcome State Fault Refusal :=
  finishPoly d (polyMulResult a b s) s

/-- POLY_MOD's result (R150): BadArgument, then GfLogZero. -/
def polyModResult (a b : PReg) (s : State) : Except ErrCode (List Byte) :=
  if !s.plenLegal a || !s.plenLegal b then .error .badArgument
  else pmod (s.polyOperand a) (s.polyOperand b)

/-- POLY_MOD pd, pa, pb (R150). -/
def execPolyMod (d a b : PReg) (s : State) : Host.Outcome State Fault Refusal :=
  finishPoly d (polyModResult a b s) s

/-- POLY_GEN's result (R152): ResourceLimit if e > 255. -/
def polyGenResult (s : State) : Except ErrCode (List Byte) :=
  if 255 < argU s.arg0 then .error .resourceLimit else gen (argU s.arg0)

/-- POLY_GEN pd (R152). -/
def execPolyGen (d : PReg) (s : State) : Host.Outcome State Fault Refusal :=
  finishPoly d (polyGenResult s) s

/-- RS_ECC's result (R154): BadArgument, then ResourceLimit, then GfLogZero; the data block is the raw list. -/
def rsEccResult (a : PReg) (s : State) : Except ErrCode (List Byte) :=
  if !s.plenLegal a || argU s.arg0 == 0 then .error .badArgument
  else if 255 < argU s.arg0 then .error .resourceLimit
  else rsEcc (s.polyRaw a) (argU s.arg0)

/-- RS_ECC pd, pa (R154). -/
def execRsEcc (d a : PReg) (s : State) : Host.Outcome State Fault Refusal :=
  finishPoly d (rsEccResult a s) s

end Sys2Proof.Machine
end

