-- ==== Sys2Proof/Machine/Segments.lean ====
section
/-! DEFINITION. The bit buffer commands and the data segment encoders (42_segments.md): BB_CLEAR, BB_PUT, SEG_WRITE,
and `valid`, `firstbad`, `segcount`, `segbits`, `items`, `segcheck`, which ENCODE uses too. -/

namespace Sys2Proof.Machine

/-! ## Segments and their text -/

/-- A well-formed segment with its text: "{mode, original text}" (R213); a character is the number a TEXT word holds. -/
structure Segment where
  mode : Mode
  chars : List Nat
deriving DecidableEq, Repr

/-- "MODE is one of the four legal values and `START + LEN ≤ TEXT_CAP`" (10_state.md R52). -/
def State.segWellFormed (s : State) (k : Nat) : Bool :=
  (Mode.ofBits (s.segMode k)).isSome && decide (s.segStart k + s.segLen k ≤ Config.textCap)

/-- `chars(s) = TEXT[START..START+LEN)` (R213). -/
def State.segChars (s : State) (k : Nat) : List Nat :=
  (List.range (s.segLen k)).map (fun i => (s.textWord (s.segStart k + i)).toNat)

/-- Segment k when its descriptor is well formed (R52, R213). -/
def State.segment (s : State) (k : Nat) : Option Segment :=
  if s.segWellFormed k then (Mode.ofBits (s.segMode k)).map (fun m => ⟨m, s.segChars k⟩) else none

/-- `valid(mode, c)` (R214). -/
def validChar (mode : Mode) (c : Nat) : Bool :=
  match mode with
  | .numeric => decide (0x30 ≤ c) && decide (c ≤ 0x39)
  | .alphanumeric => alnumSet.contains c
  | .byte => decide (c ≤ 0x7FFFFFFF)
  | .kanji => (decide (0x8140 ≤ c) && decide (c ≤ 0x9FFC)) || (decide (0xE040 ≤ c) && decide (c ≤ 0xEBBF))

/-- `firstbad(s)`: "the least j with `valid(MODE, chars(s)[j])` false, or none" (R215). -/
def Segment.firstBad (g : Segment) : Option Nat := g.chars.findIdx? (fun c => !validChar g.mode c)

/-! ## UTF-8 (R225) -/

/-- The continuation byte `0x80 | t_k` with `t_k = (c >> 6k) & 0x3F` (R225). -/
def utf8Tail (c k : Nat) : Nat := 0x80 ||| ((c >>> (6 * k)) &&& 0x3F)

/-- `utf8(c)`, the 31-bit scheme of one to six bytes (R225). -/
def utf8 (c : Nat) : List Nat :=
  if c ≤ 0x7F then [c]
  else if c ≤ 0x7FF then [0xC0 ||| (c >>> 6), utf8Tail c 0]
  else if c ≤ 0xFFFF then [0xE0 ||| (c >>> 12), utf8Tail c 1, utf8Tail c 0]
  else if c ≤ 0x1FFFFF then [0xF0 ||| (c >>> 18), utf8Tail c 2, utf8Tail c 1, utf8Tail c 0]
  else if c ≤ 0x3FFFFFF then
    [0xF8 ||| (c >>> 24), utf8Tail c 3, utf8Tail c 2, utf8Tail c 1, utf8Tail c 0]
  else [0xFC ||| (c >>> 30), utf8Tail c 4, utf8Tail c 3, utf8Tail c 2, utf8Tail c 1, utf8Tail c 0]

/-! ## Counts and bit lengths -/

/-- `segcount(s)` (R216): LEN, or for Byte the number of payload bytes with the BOM. -/
def Segment.count (g : Segment) : Nat :=
  match g.mode with
  | .byte => 3 + (g.chars.map (fun c => (utf8 c).length)).sum
  | _ => g.chars.length

/-- `payloadbits(s)` (R219). -/
def Segment.payloadBits (g : Segment) : Nat :=
  let l := g.chars.length
  match g.mode with
  | .numeric => 10 * (l / 3) + (if l % 3 = 0 then 0 else if l % 3 = 1 then 4 else 7)
  | .alphanumeric => 11 * (l / 2) + 6 * (l % 2)
  | .byte => 8 * g.count
  | .kanji => 13 * l

/-- `segbits(s, v) = 4 + lenw(MODE, v) + payloadbits(s)` (R219). -/
def Segment.bitLength (g : Segment) (v : Nat) : Nat := 4 + lenw g.mode v + g.payloadBits

/-! ## The four encoders: lists of (value, width) -/

/-- Numeric: groups of three digits in 10 bits, a tail of two in 7, of one in 4 (R221, 90_conflicts.md C2). -/
def itemsNumeric : List Nat → List (Nat × Nat)
  | [] => []
  | [a] => [(a, 4)]
  | [a, b] => [(10 * a + b, 7)]
  | a :: b :: c :: t => (100 * a + 10 * b + c, 10) :: itemsNumeric t

/-- Alphanumeric: pairs in 11 bits, a trailing single in 6 (R222). -/
def itemsAlnum : List Nat → List (Nat × Nat)
  | [] => []
  | [a] => [(acode a, 6)]
  | a :: b :: t => (acode a * 45 + acode b, 11) :: itemsAlnum t

/-- Byte: the BOM, then the UTF-8 bytes, 8 bits each (R223). -/
def itemsByte (c : List Nat) : List (Nat × Nat) := (bom ++ c.flatMap utf8).map (fun b => (b, 8))

/-- Kanji: `(kval(k), 13)` each (R224). -/
def itemsKanji (c : List Nat) : List (Nat × Nat) := c.map (fun k => (kval k, 13))

/-- `items(s)`, the payload (R220). -/
def Segment.items (g : Segment) : List (Nat × Nat) :=
  match g.mode with
  | .numeric => itemsNumeric (g.chars.map (fun c => c - 0x30))
  | .alphanumeric => itemsAlnum g.chars
  | .byte => itemsByte g.chars
  | .kanji => itemsKanji g.chars

/-- The bits `segwrite(s, v)` appends (R226): the header of R217, then the items. -/
def Segment.bits (g : Segment) (v : Nat) : List Bool :=
  bitsMsb (Mode.indicator g.mode).toNat 4 ++ bitsMsb g.count (lenw g.mode v) ++
    g.items.flatMap (fun p => bitsMsb p.1 p.2)

/-! ## Commands -/

/-- BB_CLEAR (R211). -/
def execBbClear (s : State) : Host.Outcome State Fault Refusal := finish s.clearBits

/-- BB_PUT (R212): BadArgument, then ResourceLimit. -/
def execBbPut (s : State) : Host.Outcome State Fault Refusal :=
  if 32 < argU s.arg1 then raise .badArgument s
  else if Config.bbCap < s.bbLen + argU s.arg1 then raise .resourceLimit s
  else finish (s.appendBits (bitsMsb (argU s.arg0) (argU s.arg1)))

/-- Segment ARG0 for version ARG1 (R228): none where the rule raises BadArgument. -/
def State.segWriteOperand (s : State) : Option Segment :=
  if Config.segCap ≤ argU s.arg0 || argU s.arg1 < 1 || Config.versionMax < argU s.arg1 then none
  else s.segment (argU s.arg0)

/-- SEG_WRITE (R228): BadArgument, InvalidCharacter (RES0 ← s, RES1 ← j), CodeTooLarge, ResourceLimit (R226); else the
bits appended, RES0 ← their number, RES1 ← the count. -/
def execSegWrite (s : State) : Host.Outcome State Fault Refusal :=
  match s.segWriteOperand with
  | none => raise .badArgument s
  | some g =>
    match g.firstBad with
    | some j => raise .invalidCharacter ((s.setRes0 s.arg0).setRes1 (zext j))
    | none =>
      if 2 ^ lenw g.mode (argU s.arg1) ≤ g.count then raise .codeTooLarge s
      else if Config.bbCap < s.bbLen + g.bitLength (argU s.arg1) then raise .resourceLimit s
      else
        let t := s.appendBits (g.bits (argU s.arg1))
        finish ((t.setRes0 (zext (t.bbLen - s.bbLen))).setRes1 (zext g.count))

end Sys2Proof.Machine
end

