-- ==== Sys2Proof/Machine/Assembler.lean ====
section
/-! DEFINITION. The codeword assembler (43_assembler.md): version selection, padding, the block split, error
correction and interleaving, used by ENCODE. -/

namespace Sys2Proof.Machine

/-- `totalbits(v) = Σ segbits(s, v)` (R250). -/
def totalBits (segs : List Segment) (v : Nat) : Nat := (segs.map (fun g => g.bitLength v)).sum

/-- The versions the probe tries, "1..40 ascending" (R250). -/
def versions : List Nat := (List.range Config.versionMax).map (· + 1)

/-- `selectversion(segs, ecl)` for the value of CFG_VERSION (R250). -/
def selectVersion (cfg : Nat) (segs : List Segment) (ecl : Level) : Except ErrCode Nat :=
  if cfg != 0 then .ok cfg
  else match versions.find? (fun v => decide (totalBits segs v ≤ capbits v ecl)) with
    | some v => .ok v
    | none => .error .codeTooLarge

/-- The headers and payloads of the segments in order (R253). -/
def segmentBits (segs : List Segment) (v : Nat) : List Bool := segs.flatMap (fun g => g.bits v)

/-- The terminator: four zero bits if they fit (R254). -/
def addTerminator (cap : Nat) (bits : List Bool) : List Bool :=
  if bits.length + 4 ≤ cap then bits ++ bitsMsb 0 4 else bits

/-- "pad to the next byte boundary with zero bits" (R255). -/
def addBitPadding (bits : List Bool) : List Bool :=
  bits ++ List.replicate ((8 - bits.length % 8) % 8) false

/-- The bits of `n` pad bytes from the k-th on (R256, R191). -/
def padBytes (k : Nat) : Nat → List Bool
  | 0 => []
  | n + 1 => bitsMsb (padByte k) 8 ++ padBytes (k + 1) n

/-- Byte padding "while `BB_LEN < cap`" (R256; log 12). -/
def addBytePadding (cap : Nat) (bits : List Bool) : List Bool :=
  bits ++ padBytes 0 ((cap - bits.length + 7) / 8)

/-- The bit buffer after `assemble` (R253–R256, R260). -/
def dataBits (segs : List Segment) (v cap : Nat) : List Bool :=
  addBytePadding cap (addBitPadding (addTerminator cap (segmentBits segs v)))

/-- `DATA[i] = BB.byte(i)` for i in 0..cap/8 − 1 (R256, R260). -/
def dataCodewords (bits : List Bool) (cap : Nat) : List Byte :=
  (List.range (cap / 8)).map (bbByte bits)

/-- "Split the padded byte stream across RSBlocks in order", each block with its EC codewords (R257). -/
def encodeBlocks : List (Nat × Nat) → List Byte → Except ErrCode (List (List Byte × List Byte))
  | [], _ => .ok []
  | (t, d) :: bs, data => do
    let ec ← rsEcc (data.take d) (t - d)
    let rest ← encodeBlocks bs (data.drop d)
    .ok ((data.take d, ec) :: rest)

/-- Column-major reading of a list of blocks, a shorter block skipped past its end (R258). -/
def columns (blocks : List (List Byte)) : List Byte :=
  (List.range ((blocks.map List.length).foldr max 0)).flatMap (fun i => blocks.filterMap (fun b => b[i]?))

/-- `interleave(DB, EB)` (R258). -/
def interleave (blocks : List (List Byte × List Byte)) : List Byte :=
  columns (blocks.map Prod.fst) ++ columns (blocks.map Prod.snd)

/-- What `assemble` computes (R260): the bit buffer and the codewords it writes. -/
structure Assembled where
  bits : List Bool
  codewords : List Byte
deriving DecidableEq, Repr

/-- `assemble(segs, v, ecl)` (R260). R155 derives that its rs_ecc raises no error (log 13). -/
def assemble (segs : List Segment) (v : Nat) (ecl : Level) : Except ErrCode Assembled := do
  let bits := dataBits segs v (capbits v ecl)
  let blocks ← encodeBlocks (rsblocks v ecl) (dataCodewords bits (capbits v ecl))
  .ok ⟨bits, interleave blocks⟩

end Sys2Proof.Machine
end

