-- ==== Sys2Proof/Machine/Matrix.lean ====
section
/-! DEFINITION. The symbol matrix builder and the BCH encoder (44_matrix.md): the structural patterns, the format and
version information, data placement and masking, and the commands BUILD, BCH_FMT, BCH_VER, MASK_BIT. -/

namespace Sys2Proof.Machine

/-! ## Grids -/

/-- n = 4v + 17 (00_scope.md R12). -/
abbrev sizeOf (v : Nat) : Nat := 4 * v + 17

/-- Every cell UNSET (R281 step 1). -/
def Grid.blank (n : Nat) : Grid := List.replicate n (List.replicate n .unset)

/-- G[r][c]; a place outside the grid is UNSET. -/
def Grid.cell (g : Grid) (r c : Nat) : GridCell := (g.getD r []).getD c .unset

/-- G[r][c] ← x; a place outside the grid is no place. -/
def Grid.put (g : Grid) (r c : Nat) (x : GridCell) : Grid := g.set r ((g.getD r []).set c x)

/-- DARK for true, LIGHT for false. -/
def shade (b : Bool) : GridCell := if b then .dark else .light

/-- One write of a pattern. -/
structure CellWrite where
  row : Nat
  col : Nat
  value : GridCell
deriving DecidableEq, Repr

/-- The writes of a list, in order. -/
def Grid.putAll (g : Grid) (ws : List CellWrite) : Grid :=
  ws.foldl (fun h w => h.put w.row w.col w.value) g

/-! ## Structural patterns -/

/-- The shape of a finder with its separator at offsets r, c in −1..7, given as r + 1 and c + 1 in 0..8 (R282). -/
def finderDark (r1 c1 : Nat) : Bool :=
  let ring := fun a b => decide (1 ≤ a) && decide (a ≤ 7) && (b == 1 || b == 7)
  ring r1 c1 || ring c1 r1 ||
    (decide (3 ≤ r1) && decide (r1 ≤ 5) && decide (3 ≤ c1) && decide (c1 ≤ 5))

/-- The writes of the finder pattern with corner (r0, c0), those inside the n × n grid (R282). -/
def finderWrites (n r0 c0 : Nat) : List CellWrite :=
  (List.range 9).flatMap (fun r1 => (List.range 9).filterMap (fun c1 =>
    if 1 ≤ r0 + r1 ∧ r0 + r1 ≤ n ∧ 1 ≤ c0 + c1 ∧ c0 + c1 ≤ n then
      some ⟨r0 + r1 - 1, c0 + c1 - 1, shade (finderDark r1 c1)⟩
    else none))

/-- The three finders: "(0, 0) (top-left), (0, n−7) (top-right) and (n−7, 0) (bottom-left), written in that order"
(R283). -/
def placeFinders (n : Nat) (g : Grid) : Grid :=
  g.putAll (finderWrites n 0 0 ++ finderWrites n 0 (n - 7) ++ finderWrites n (n - 7) 0)

/-- The 25 writes of an alignment pattern with centre (r, c), dr + 2 and dc + 2 in 0..4 (R284). -/
def alignmentWrites (r c : Nat) : List CellWrite :=
  (List.range 5).flatMap (fun dr => (List.range 5).map (fun dc =>
    ⟨r + dr - 2, c + dc - 2,
      shade (dr == 0 || dr == 4 || dc == 0 || dc == 4 || (dr == 2 && dc == 2))⟩))

/-- One alignment pattern, "skipped where it would overlap an already-set module" (R284). -/
def placeAlignment (g : Grid) (rc : Nat × Nat) : Grid :=
  let ws := alignmentWrites rc.1 rc.2
  if ws.all (fun w => g.cell w.row w.col == .unset) then g.putAll ws else g

/-- "For each r in alignpos(v) and, inside that, each c in alignpos(v), both in list order" (R284). -/
def placeAlignments (v : Nat) (g : Grid) : Grid :=
  ((alignpos v).flatMap (fun r => (alignpos v).map (fun c => (r, c)))).foldl placeAlignment g

/-- A write to a cell still UNSET (R285). -/
def Grid.putIfUnset (g : Grid) (r c : Nat) (x : GridCell) : Grid :=
  if g.cell r c == .unset then g.put r c x else g

/-- Timing cell k: (k, 6), then (6, k), "DARK when k is even and LIGHT when k is odd" (R285). -/
def placeTimingAt (g : Grid) (k : Nat) : Grid :=
  (g.putIfUnset k 6 (shade (k % 2 == 0))).putIfUnset 6 k (shade (k % 2 == 0))

/-- Timing patterns, "For k = 8 to n−9" (R285). -/
def placeTiming (n : Nat) (g : Grid) : Grid :=
  ((List.range (n - 16)).map (· + 8)).foldl placeTimingAt g

/-! ## BCH words -/

/-- `bitlen(x)`: "the position of the highest set bit plus 1, and bitlen(0) = 0" (R295). -/
def bitlen (x : Nat) : Nat := if x = 0 then 0 else Nat.log2 x + 1

/-- The loop of `bchrem` (R295), at most `fuel` passes. -/
def bchremLoop : Nat → Nat → Nat → Nat
  | 0, x, _ => x
  | fuel + 1, x, g =>
    if bitlen g ≤ bitlen x then bchremLoop fuel (x ^^^ (g <<< (bitlen x - bitlen g))) g else x

/-- `bchrem(x, g)` (R295); each pass clears the highest bit of x, so `bitlen x` passes are enough (log 12). -/
def bchrem (x g : Nat) : Nat := bchremLoop (bitlen x) x g

/-- `fmtword(d) = ((d << 10) | bchrem(d << 10, G15)) XOR FMT_MASK` (R286). -/
def fmtword (d : Nat) : Nat := ((d <<< 10) ||| bchrem (d <<< 10) g15) ^^^ fmtMask

/-- `verword(v) = (v << 12) | bchrem(v << 12, G18)` (R289). -/
def verword (v : Nat) : Nat := (v <<< 12) ||| bchrem (v <<< 12) g18

/-! ## Format and version information -/

/-- The place of format bit i in copy A, column 8 (R287). -/
def formatRowA (n i : Nat) : Nat := if i < 6 then i else if i < 8 then i + 1 else n - 15 + i

/-- The place of format bit i in copy B, row 8 (R287). -/
def formatColB (n i : Nat) : Nat := if i < 8 then n - 1 - i else if i = 8 then 7 else 14 - i

/-- A bit of a word rendered: DARK when test = 0 and the bit is 1, else LIGHT (R287, R289, R290). -/
def infoCell (test : Bool) (word i : Nat) : GridCell := shade (!test && word.testBit i)

/-- Both format copies, A first, then the dark module (R287, R288). -/
def formatWrites (n : Nat) (test : Bool) (word : Nat) : List CellWrite :=
  (List.range 15).map (fun i => ⟨formatRowA n i, 8, infoCell test word i⟩) ++
  (List.range 15).map (fun i => ⟨8, formatColB n i, infoCell test word i⟩) ++
  [⟨n - 8, 8, shade (!test)⟩]

/-- Both version copies: bit i at (i div 3, n−11 + i mod 3), then at (n−11 + i mod 3, i div 3) (R289). -/
def versionWrites (n : Nat) (test : Bool) (word : Nat) : List CellWrite :=
  (List.range 18).flatMap (fun i =>
    [⟨i / 3, n - 11 + i % 3, infoCell test word i⟩, ⟨n - 11 + i % 3, i / 3, infoCell test word i⟩])

/-! ## Data placement -/

/-- `mask(m, i, j)`, true = invert (R293). -/
def maskBit (m i j : Nat) : Bool :=
  if m = 0 then (i + j) % 2 == 0
  else if m = 1 then i % 2 == 0
  else if m = 2 then j % 3 == 0
  else if m = 3 then (i + j) % 3 == 0
  else if m = 4 then (i / 2 + j / 3) % 2 == 0
  else if m = 5 then (i * j) % 2 + (i * j) % 3 == 0
  else if m = 6 then ((i * j) % 2 + (i * j) % 3) % 2 == 0
  else ((i * j) % 3 + (i + j) % 2) % 2 == 0

/-- The right columns of the pairs in order: n−1, n−3, …, 8, then, column 6 skipped, 5, 3, 1 (R291). -/
def rightColumns (n : Nat) : List Nat :=
  (List.range ((n - 7) / 2)).map (fun k => n - 1 - 2 * k) ++ [5, 3, 1]

/-- The rows of the k-th pair: upward for even k, downward for odd k (R291). -/
def rowsOfPair (n k : Nat) : List Nat :=
  if k % 2 = 0 then (List.range n).reverse else List.range n

/-- The cells in the order the placement visits them, "right cell of the pair first" (R291). -/
def placementOrder (n : Nat) : List (Nat × Nat) :=
  (rightColumns n).zipIdx.flatMap (fun p =>
    (rowsOfPair n p.2).flatMap (fun r => [(r, p.1), (r, p.1 - 1)]))

/-- Data placement along the visited cells: a cell still UNSET consumes the next stream bit, 0 once the stream is
exhausted, "XOR mask" (R291). -/
def placeData (m : Nat) : List (Nat × Nat) → List Bool → Grid → Grid
  | [], _, g => g
  | (r, c) :: rest, stream, g =>
    if g.cell r c == .unset then
      placeData m rest stream.tail (g.put r c (shade ((stream.headD false) ^^ maskBit m r c)))
    else placeData m rest stream g

/-- The stream of codeword bits, "bit 7 downward within each byte" (R292). -/
def codewordBits (cws : List Byte) : List Bool := cws.flatMap (fun b => bitsMsb b.toNat 8)

/-! ## The builder -/

/-- Steps 1 to 4 of R281: the patterns that depend on v alone. -/
def patternGrid (v : Nat) : Grid :=
  placeTiming (sizeOf v) (placeAlignments v (placeFinders (sizeOf v) (Grid.blank (sizeOf v))))

/-- Steps 1 to 6 of R281. -/
def structuralGrid (v : Nat) (eb : BitVec 2) (m : Nat) (test : Bool) : Grid :=
  let g := (patternGrid v).putAll (formatWrites (sizeOf v) test (fmtword ((eb.toNat <<< 3) ||| m)))
  if 7 ≤ v then g.putAll (versionWrites (sizeOf v) test (verword v)) else g

/-- `build(v, eb, m, test)` of the codewords `cws` (R281). -/
def buildGrid (v : Nat) (eb : BitVec 2) (cws : List Byte) (m : Nat) (test : Bool) : Grid :=
  placeData m (placementOrder (sizeOf v)) (codewordBits cws) (structuralGrid v eb m test)

/-! ## Commands -/

/-- BUILD (R280): BadArgument, then InvalidMaskPattern; the grid is MASKED. -/
def execBuild (s : State) : Host.Outcome State Fault Refusal :=
  if argU s.arg2 < 1 || Config.versionMax < argU s.arg2 || 1 < argU s.arg1 || Config.cwCap < s.cwLen.toNat then
    raise .badArgument s
  else if 7 < argU s.arg0 then raise .invalidMaskPattern s
  else
    finish (s.setGrid
      (buildGrid (argU s.arg2) s.cfgEcl s.codewords (argU s.arg0) (argU s.arg1 == 1))
      .masked (argU s.arg2) (argU s.arg0) s.cfgEcl)

/-- BCH_FMT (R296): BadArgument if d > 31. -/
def execBchFmt (s : State) : Host.Outcome State Fault Refusal :=
  if 31 < argU s.arg0 then raise .badArgument s
  else finish (s.setRes0 (zext (fmtword (argU s.arg0))))

/-- BCH_VER (R297): BadArgument if v > 63. -/
def execBchVer (s : State) : Host.Outcome State Fault Refusal :=
  if 63 < argU s.arg0 then raise .badArgument s
  else finish (s.setRes0 (zext (verword (argU s.arg0))))

/-- MASK_BIT (R294): BadArgument if row or col > 255, then InvalidMaskPattern if m > 7. -/
def execMaskBit (s : State) : Host.Outcome State Fault Refusal :=
  if 255 < argU s.arg1 || 255 < argU s.arg2 then raise .badArgument s
  else if 7 < argU s.arg0 then raise .invalidMaskPattern s
  else finish (s.setRes0 (zext (maskBit (argU s.arg0) (argU s.arg1) (argU s.arg2)).toNat))

end Sys2Proof.Machine
end

