-- ==== Sys2Proof/Machine/Penalty.lean ====
section
/-! DEFINITION. The penalty scorer and the mask selector (45_mask_select.md), and the command PENALTY. -/

namespace Sys2Proof.Machine

/-- The colours of a grid, true = DARK; the scorer "reads only the cell colours" (R330). -/
def Grid.colours (g : Grid) : List (List Bool) := g.map (fun row => row.map (fun x => x == .dark))

/-- The columns of an n × n grid, left to right, each read top to bottom (R330). -/
def columnLines (n : Nat) (rows : List (List Bool)) : List (List Bool) :=
  (List.range n).map (fun c => rows.map (fun row => row.getD c false))

/-- The 2n lines of a grid (R330). -/
def lines (n : Nat) (rows : List (List Bool)) : List (List Bool) := rows ++ columnLines n rows

/-- A maximal run of length L adds `3 + (L − 5)` when L ≥ 5 (R331). -/
def runScore (len : Nat) : Nat := if 5 ≤ len then 3 + (len - 5) else 0

/-- The runs of a line whose current run has colour `x` and length `len` so far (R331). -/
def runsFrom (x : Bool) (len : Nat) : List Bool → Nat
  | [] => runScore len
  | y :: ys => if y == x then runsFrom x (len + 1) ys else runScore len + runsFrom y 1 ys

/-- Rule 1 on one line (R331). -/
def lineRuns : List Bool → Nat
  | [] => 0
  | x :: xs => runsFrom x 1 xs

/-- Rule 1 (R331). -/
def penalty1 (ls : List (List Bool)) : Nat := (ls.map lineRuns).sum

/-- The 2 × 2 blocks of one colour in two adjacent rows, 3 each (R332). -/
def blockScore : List Bool → List Bool → Nat
  | a :: b :: as, c :: d :: cs =>
    (if a == b && b == c && c == d then 3 else 0) + blockScore (b :: as) (d :: cs)
  | _, _ => 0

/-- Rule 2 (R332). -/
def penalty2 : List (List Bool) → Nat
  | [] => 0
  | [_] => 0
  | r :: r' :: rs => blockScore r r' + penalty2 (r' :: rs)

/-- DARK, LIGHT, DARK, DARK, DARK, LIGHT, DARK (R333). -/
def finderLine : List Bool := [true, false, true, true, true, false, true]

/-- Rule 3 on one line: 40 for every start where the seven cells match (R333). -/
def lineFinders : List Bool → Nat
  | [] => 0
  | x :: xs => (if (x :: xs).take 7 == finderLine then 40 else 0) + lineFinders xs

/-- Rule 3 (R333). -/
def penalty3 (ls : List (List Bool)) : Nat := (ls.map lineFinders).sum

/-- D, the number of DARK cells (R334). -/
def darkCount (rows : List (List Bool)) : Nat := (rows.map (fun row => row.count true)).sum

/-- Rule 4: `10 * floor(|20·D − 10·N| / N)` with N = n² (R334). -/
def penalty4 (n d : Nat) : Nat := 10 * ((20 * (d : Int) - 10 * (n * n : Nat)).natAbs / (n * n))

/-- `penalty(G)` of an n × n grid, "`P1 + P2 + P3 + P4`" (R330). -/
def penalty (n : Nat) (g : Grid) : Nat :=
  let rows := g.colours
  let ls := lines n rows
  penalty1 ls + penalty2 rows + penalty3 ls + penalty4 n (darkCount rows)

/-! ## Mask selection -/

/-- The score of mask m: the penalty of the test-mode grid (R336). -/
def maskScore (v : Nat) (eb : BitVec 2) (cws : List Byte) (m : Nat) : Nat :=
  penalty (sizeOf v) (buildGrid v eb cws m true)

/-- The remaining ids against the best so far: "comparison only replaces on strict improvement" (R336). -/
def bestOf (score : Nat → Nat) (best bestp : Nat) : List Nat → Nat
  | [] => best
  | m :: ms => let p := score m; if p < bestp then bestOf score m p ms else bestOf score best bestp ms

/-- `selectmask(v, eb)`: ids 0, 1, …, 7, "first minimum wins on ties" (R336). -/
def selectMask (v : Nat) (eb : BitVec 2) (cws : List Byte) : Nat :=
  bestOf (maskScore v eb cws) 0 (maskScore v eb cws 0) [1, 2, 3, 4, 5, 6, 7]

/-! ## Command -/

/-- `GRID[0..n)[0..n)` with n = MODULECOUNT (R335). -/
def State.gridView (s : State) : Grid :=
  (s.grid.take s.moduleCount.toNat).map (fun row => row.take s.moduleCount.toNat)

/-- PENALTY (R335): BadArgument when EMPTY; RES0 ← the penalty, RES1 ← the dark count. -/
def execPenalty (s : State) : Host.Outcome State Fault Refusal :=
  if s.gridState == .empty then raise .badArgument s
  else
    finish ((s.setRes0 (zext (penalty s.moduleCount.toNat s.gridView))).setRes1
      (zext (darkCount s.gridView.colours)))

end Sys2Proof.Machine
end

