-- ==== Sys2Proof/Machine/Control.lean ====
section
/-! DEFINITION. The control commands NOP and SRESET, the whole encoder ENCODE, and the grid read ISDARK
(46_control.md). -/

namespace Sys2Proof.Machine

/-- NOP: "only the command cycle of 60_exceptions.md rule R381 runs" (R350). -/
def execNop (s : State) : Host.Outcome State Fault Refusal := finish s

/-- SRESET (R351): the registers reset, the memories kept, then the command completes. -/
def execSreset (s : State) : Host.Outcome State Fault Refusal := finish s.resetRegisters

/-! ## ENCODE (R352) -/

/-- An error of ENCODE with what `fail(E, r0, r1)` writes (R352). -/
structure EncodeError where
  code : ErrCode
  res0 : Option Word
  res1 : Option Word
deriving DecidableEq, Repr

/-- A register written when the error gives a value. -/
def State.setRes0? (s : State) : Option Word → State
  | some v => s.setRes0 v
  | none => s

/-- The same for RES1. -/
def State.setRes1? (s : State) : Option Word → State
  | some v => s.setRes1 v
  | none => s

/-- `fail(E, r0, r1)` (R352): the grid is discarded, the error information written, the error raised. -/
def failEncode (e : EncodeError) (s : State) : Host.Outcome State Fault Refusal :=
  raise e.code ((s.dropGrid.setRes0? e.res0).setRes1? e.res1)

/-- Phase 1's loop over the descriptors: the segments from `k` on, `n` of them, or BadArgument at the first that is not
well formed. -/
def readSegments (s : State) (k : Nat) : Nat → Except EncodeError (List Segment)
  | 0 => .ok []
  | n + 1 =>
    match s.segment k with
    | none => .error ⟨.badArgument, some (zext k), none⟩
    | some g => do
      let rest ← readSegments s (k + 1) n
      .ok (g :: rest)

/-- Phase 1: SEG_COUNT, CFG_VERSION and the descriptors (R352). -/
def encodeArguments (s : State) : Except EncodeError (List Segment) :=
  if Config.segCap < s.segCount.toNat then .error ⟨.badArgument, some 0xFFFFFFFF#32, none⟩
  else if Config.versionMax < s.cfgVersion.toNat then .error ⟨.badArgument, some 0xFFFFFFFF#32, none⟩
  else readSegments s 0 s.segCount.toNat

/-- Phase 2: "character validation, every segment before any bit is written", from segment index `k` on (R352). -/
def validateSegments (k : Nat) : List Segment → Except EncodeError Unit
  | [] => .ok ()
  | g :: gs =>
    match g.firstBad with
    | some j => .error ⟨.invalidCharacter, some (zext k), some (zext j)⟩
    | none => validateSegments (k + 1) gs

/-- Phase 3: the version, and the capacity check (R352, 43_assembler.md R250, R251). -/
def encodeVersion (cfg : Nat) (segs : List Segment) (ecl : Level) : Except EncodeError Nat :=
  match selectVersion cfg segs ecl with
  | .error e => .error ⟨e, none, none⟩
  | .ok v => if capbits v ecl < totalBits segs v then .error ⟨.codeTooLarge, none, none⟩ else .ok v

/-- What a successful ENCODE has computed when it commits. -/
structure Encoded where
  version : Nat
  mask : Nat
  bits : List Bool
  codewords : List Byte
deriving DecidableEq, Repr

/-- Phases 1 to 4 up to the chosen mask (R352). An error of the assembler, which R155 and R252 derive to be
impossible, would end the command as `fail` with no error information (log 13). -/
def encodeSymbol (s : State) : Except EncodeError Encoded := do
  let segs ← encodeArguments s
  validateSegments 0 segs
  let v ← encodeVersion s.cfgVersion.toNat segs (Level.ofBits s.cfgEcl)
  match assemble segs v (Level.ofBits s.cfgEcl) with
  | .error e => .error ⟨e, none, none⟩
  | .ok a => .ok ⟨v, selectMask v s.cfgEcl a.codewords, a.bits, a.codewords⟩

/-- The commit (R352, 45_mask_select.md R337): BB cleared and filled (43_assembler.md R260), CW, CW_LEN, the grid in non-test mode, its registers, RES0, RES1. -/
def State.commitSymbol (s : State) (e : Encoded) : State :=
  ((((s.clearBits.appendBits e.bits).writeCodewords e.codewords).setGrid
    (buildGrid e.version s.cfgEcl e.codewords e.mask false) .committed e.version e.mask s.cfgEcl).setRes0
      (zext e.version)).setRes1 (zext e.mask)

/-- ENCODE (R352). -/
def execEncode (s : State) : Host.Outcome State Fault Refusal :=
  match encodeSymbol s with
  | .error e => failEncode e s
  | .ok e => finish (s.commitSymbol e)

/-! ## Grid read -/

/-- A signed index lies in `[0, moduleCount)` (R353). -/
def State.inGrid (s : State) (x : Int) : Bool := decide (0 ≤ x) && decide (x < (s.moduleCount.toNat : Int))

/-- ISDARK (R353): OutOfRange, else RES0 ← 1 for a DARK module, 0 otherwise. -/
def execIsDark (s : State) : Host.Outcome State Fault Refusal :=
  if s.gridState == .empty || !s.inGrid (argS s.arg0) || !s.inGrid (argS s.arg1) then raise .outOfRange s
  else
    finish (s.setRes0
      (zext (s.grid.cell (argS s.arg0).toNat (argS s.arg1).toNat == .dark).toNat))

end Sys2Proof.Machine
end

