-- ==== Sys2Proof/Machine/Dispatch.lean ====
section
/-! DEFINITION. One arm per command, each the direct call of its meaning. -/

namespace Sys2Proof.Machine

def exec (i : Instr) (s : State) : Host.Outcome State Fault Refusal :=
  match i with
  | .nop => Sys2Proof.Machine.execNop s
  | .sreset => Sys2Proof.Machine.execSreset s
  | .gfExp => Sys2Proof.Machine.execGfExp s
  | .gfLog => Sys2Proof.Machine.execGfLog s
  | .polyMul d a b => Sys2Proof.Machine.execPolyMul d a b s
  | .polyMod d a b => Sys2Proof.Machine.execPolyMod d a b s
  | .polyGen d => Sys2Proof.Machine.execPolyGen d s
  | .rsEcc d a => Sys2Proof.Machine.execRsEcc d a s
  | .bbClear => Sys2Proof.Machine.execBbClear s
  | .bbPut => Sys2Proof.Machine.execBbPut s
  | .segWrite => Sys2Proof.Machine.execSegWrite s
  | .build => Sys2Proof.Machine.execBuild s
  | .bchFmt => Sys2Proof.Machine.execBchFmt s
  | .bchVer => Sys2Proof.Machine.execBchVer s
  | .maskBit => Sys2Proof.Machine.execMaskBit s
  | .penalty => Sys2Proof.Machine.execPenalty s
  | .encode => Sys2Proof.Machine.execEncode s
  | .isDark => Sys2Proof.Machine.execIsDark s

end Sys2Proof.Machine
end

