-- ==== Sys2Proof/Machine/Step.lean ====
section
/-! DEFINITION. One step of the machine: the captured command runs (60_exceptions.md R381), or the host acts, or
nothing is pending; while the reset input is held the core stays at its reset values. The core fetches nothing (10_state.md R32): what a step "fetches" is the captured command word. -/

namespace Sys2Proof.Machine

/-- `execute(w); complete(code)` (R381): an undecodable word completes with IllegalCommand (R382). -/
def runCommand (w : Word) (s : State) : Host.Outcome State Fault Refusal :=
  match decode w with
  | .ok i => exec i s
  | .error _ => raise .illegalCommand s

/-- While the reset input is held no command runs (70_reset_and_hazards.md R420). While SEQ = BUSY with no host access left before it (or the host doing nothing), the captured command runs;
otherwise the next host action takes effect, and with nothing pending the core waits (70_reset_and_hazards.md R423). -/
def step (s : State) : Host.Outcome State Fault Refusal :=
  if s.rst then .next s.heldTurn
  else match s.seq, s.bus with
  | .busy w 0, _ => runCommand w s
  | .busy w (_ + 1), [] => runCommand w s
  | .busy _ (_ + 1), e :: rest => .next (s.hostTurn e rest)
  | .idle, [] => .next s
  | .idle, e :: rest => .next (s.hostTurn e rest)

/-- `s` with a word of `nbits` bits (the bits above them 0) as the captured command, accepted with no delay by a
core whose reset input is released: the next step runs it (log 6). -/
def State.withFetchWord (s : State) (nbits w : Nat) : State :=
  (s.capture (BitVec.ofNat 32 (w % 2 ^ nbits)) 0).setRst false

end Sys2Proof.Machine
end

