-- ==== Sys2Proof/Safety.lean ====
section
/-! DEFINITION. The terms the claims use: the parts of the invariant every step keeps, and the vocabulary of the
statements that the machine itself does not need. -/

namespace Sys2Proof.Machine

/-! ## The invariant -/

/-- The stored windows are in canonical form: only places that store something are listed (20_memory.md R86, R87). -/
abbrev State.MemoryCanonical (s : State) : Prop := s.mem.wf = true

/-- "from 0 to BB_CAP" (10_state.md R45). -/
abbrev State.BufferFits (s : State) : Prop := s.bb.length ≤ Config.bbCap

/-- The grid registers agree with GRID_STATE (10_state.md R41–R44): all 0 when EMPTY, else a version 1..40 and
MODULECOUNT = 4·version + 17. -/
abbrev State.GridRegisters (s : State) : Prop :=
  (s.gridState = .empty →
    s.grid = [] ∧ s.moduleCount = 0#8 ∧ s.symVersion = 0#6 ∧ s.symMask = 0#3 ∧ s.symEcl = 0#2) ∧
  (s.gridState ≠ .empty →
    1 ≤ s.symVersion.toNat ∧ s.symVersion.toNat ≤ Config.versionMax ∧
      s.moduleCount.toNat = 4 * s.symVersion.toNat + 17)

/-- While a command is in flight DONE and ERR are 0 (60_exceptions.md R381). -/
abbrev State.CycleFlags (s : State) : Prop := s.busy = true → s.done = false ∧ s.err = .none

/-- While the reset input is held every register, the bit buffer and the grid are at their reset values
(70_reset_and_hazards.md R420); the stored windows and the model's own fields are free. -/
abbrev State.ResetHeld (s : State) : Prop :=
  s.rst = true → s = { State.reset with
    mem := s.mem, rst := true, bus := s.bus, resp := s.resp, latency := s.latency, draws := s.draws }

/-- The invariant of registers, windows and bit buffer. -/
abbrev State.Inv (s : State) : Prop :=
  s.MemoryCanonical ∧ s.BufferFits ∧ s.GridRegisters ∧ s.CycleFlags ∧ s.ResetHeld

/-- An n × n grid with no UNSET cell: "fully resolved" (R49). -/
def Grid.resolved (n : Nat) (g : Grid) : Bool :=
  g.length == n && g.all (fun row => row.length == n && row.all (fun x => x != .unset))

/-- "In MASKED and COMMITTED, the n × n cells with n = MODULECOUNT are all DARK or LIGHT" (R49). -/
abbrev State.GridResolved (s : State) : Prop :=
  s.gridState ≠ .empty → Grid.resolved s.moduleCount.toNat s.grid = true

/-! ## GF(256) as the statements say it -/

/-- Multiplication by α = x with reduction by 0x11D (40_gf_poly.md R140). -/
def gfDouble (x : Byte) : Byte :=
  BitVec.ofNat 8 (if x.toNat * 2 < 256 then x.toNat * 2 else (x.toNat * 2) ^^^ 0x11D)

/-- The discrete log of a nonzero byte, as the number LOG[b] (R141). -/
def dlog (b : Byte) : Nat := (romAt logRom b.toNat).toNat

/-- The product of two field elements: "For nonzero a and b the product is `exp(log a + log b)`" (R156); 0 when one
of them is 0. -/
def gfMul (x y : Byte) : Byte := if x = 0#8 ∨ y = 0#8 then 0#8 else gfExp ((dlog x : Int) + (dlog y : Int))

/-- Coefficient k of a product: "the XOR of `exp(log(a_i)+log(b_j))` over all `i+j=k`" (R147). -/
def productCoeff (a b : List Byte) (k : Nat) : Byte :=
  ((List.range (k + 1)).map (fun i => gfMul (a.getD i 0#8) (b.getD (k - i) 0#8))).foldl (· ^^^ ·) 0#8

/-! ## Command words and bus offsets as the rules list them -/

/-- The opcodes of 30_encoding.md R114. -/
def opcodeList : List (BitVec 8) :=
  [0x00#8, 0x01#8, 0x10#8, 0x11#8, 0x12#8, 0x13#8, 0x14#8, 0x15#8, 0x20#8, 0x21#8, 0x22#8, 0x30#8, 0x31#8, 0x32#8,
   0x33#8, 0x40#8, 0x50#8, 0x51#8]

/-- "a word w is a legal command exactly when OP = w[7:0] is one of the opcodes of rule R114, w[31:14] = 0, and every
field the opcode does not use is 0" (R112): RD is used by opcodes 12 to 15, RA by 12, 13 and 15, RB by 12 and 13
(R114). -/
def LegalWord (w : Word) : Prop :=
  w.extractLsb' 0 8 ∈ opcodeList ∧ w.extractLsb' 14 18 = 0#18 ∧
  (w.extractLsb' 0 8 ∉ [0x12#8, 0x13#8, 0x14#8, 0x15#8] → w.extractLsb' 8 2 = 0#2) ∧
  (w.extractLsb' 0 8 ∉ [0x12#8, 0x13#8, 0x15#8] → w.extractLsb' 10 2 = 0#2) ∧
  (w.extractLsb' 0 8 ∉ [0x12#8, 0x13#8] → w.extractLsb' 12 2 = 0#2)

/-- The offsets 20_memory.md R86 and R88 give a register, a reserved slot or a window word: every offset but those R88
lists as bus errors. -/
def Mapped (a : Addr) : Prop :=
  a.toNat % 4 = 0 ∧
  (a.toNat < 0x02200 ∨ (0x04000 ≤ a.toNat ∧ a.toNat < 0x06E30) ∨ (0x08000 ≤ a.toNat ∧ a.toNat < 0x0B9E8) ∨
    (0x10000 ≤ a.toNat ∧ a.toNat < 0x18000))

/-- The offset of a byte of the stored windows, as a bus offset. -/
def offset (a : Nat) : Addr := BitVec.ofNat 17 a

/-! ## Shapes of the grid -/

/-- The finder pattern with its separator at distances `r`, `c` in 0..7 from the outer corner of the symbol
(44_matrix.md R282): DARK where the rule says so for r, c in 0..6, LIGHT at the separator distance 7. -/
def finderShape (r c : Nat) : Bool :=
  (decide (r ≤ 6) && (c == 0 || c == 6)) || (decide (c ≤ 6) && (r == 0 || r == 6)) ||
    (decide (2 ≤ r) && decide (r ≤ 4) && decide (2 ≤ c) && decide (c ≤ 4))

/-- The place of format bit `i` in copy A (44_matrix.md R287). -/
def formatPlaceA (n i : Nat) : Nat × Nat :=
  if i ≤ 5 then (i, 8) else if i = 6 then (7, 8) else if i = 7 then (8, 8) else if i = 8 then (n - 7, 8)
  else (n - 15 + i, 8)

/-- The place of format bit `i` in copy B (44_matrix.md R287). -/
def formatPlaceB (n i : Nat) : Nat × Nat :=
  if i ≤ 5 then (8, n - 1 - i) else if i = 6 then (8, n - 7) else if i = 7 then (8, n - 8) else if i = 8 then (8, 7)
  else (8, 14 - i)

/-- `last`, "the last entry of alignpos(v)" (44_matrix.md R284), is n − 7; the centres R284 skips. -/
def skippedCentres (v : Nat) : List (Nat × Nat) := [(6, 6), (6, 4 * v + 10), (4 * v + 10, 6)]

/-- The 5 × 5 alignment pattern at distances `dr`, `dc` in 0..4 from its top-left cell: "DARK if `|dr| = 2 or |dc| = 2 or
(dr = 0 and dc = 0)`" of distances from the centre (R284). -/
def alignmentShape (dr dc : Nat) : Bool :=
  dr == 0 || dr == 4 || dc == 0 || dc == 4 || (dr == 2 && dc == 2)

/-- The function cells of a version (R281–R289, R298 (b)): the corners with finders, separators, format cells and the
dark module; row 6 and column 6 with the timing patterns; the version blocks; the alignment patterns. -/
abbrev FunctionCell (v r c : Nat) : Prop :=
  (r ≤ 8 ∧ c ≤ 8) ∨ (r ≤ 8 ∧ 4 * v + 9 ≤ c) ∨ (4 * v + 9 ≤ r ∧ c ≤ 8) ∨ r = 6 ∨ c = 6 ∨
  (7 ≤ v ∧ r ≤ 5 ∧ 4 * v + 6 ≤ c ∧ c ≤ 4 * v + 8) ∨ (7 ≤ v ∧ c ≤ 5 ∧ 4 * v + 6 ≤ r ∧ r ≤ 4 * v + 8) ∨
  ∃ a ∈ alignpos v, ∃ b ∈ alignpos v, (a, b) ∉ skippedCentres v ∧ a ≤ r + 2 ∧ r ≤ a + 2 ∧ b ≤ c + 2 ∧ c ≤ b + 2

/-! ## Lines of a grid (45_mask_select.md R330) -/

/-- Row `r` of an n × n grid, left to right, true = DARK. -/
def rowLine (n : Nat) (g : Grid) (r : Nat) : List Bool := (List.range n).map (fun c => g.cell r c == .dark)

/-- Column `c` of an n × n grid, top to bottom, true = DARK. -/
def colLine (n : Nat) (g : Grid) (c : Nat) : List Bool := (List.range n).map (fun r => g.cell r c == .dark)

/-! ## Segments and codewords as the rules write them -/

/-- The bits of a field of `w` bits, "for k from w−1 down to 0" (42_segments.md R210). -/
def fieldBits (value w : Nat) : List Bool := (List.range w).map (fun k => value.testBit (w - 1 - k))

/-- "'0'–'9' are 0–9, 'A'–'Z' are 10–35, and the rest are: space 36, ... ':' 44" (41_tables.md R188). -/
def alnumCode (c : Nat) : Nat :=
  if 0x30 ≤ c ∧ c ≤ 0x39 then c - 0x30
  else if 0x41 ≤ c ∧ c ≤ 0x5A then c - 0x41 + 10
  else [0x20, 0x24, 0x25, 0x2A, 0x2B, 0x2D, 0x2E, 0x2F, 0x3A].idxOf c + 36

/-- The offset of a Kanji code's range (41_tables.md R189). -/
def kanjiOffset (k : Nat) : Nat := if k ≤ 0x9FFC then 0x8140 else 0xC140

/-- The bytes after the first of a character's UTF-8 form, by its range (42_segments.md R225). -/
def utf8Tails (c : Nat) : Nat :=
  if c ≤ 0x7F then 0 else if c ≤ 0x7FF then 1 else if c ≤ 0xFFFF then 2 else if c ≤ 0x1FFFFF then 3
  else if c ≤ 0x3FFFFFF then 4 else 5

/-- The zero bits after `used` bits of segments: the terminator of four when it fits in `cap`, then up to the next byte
boundary (43_assembler.md R254, R255). -/
def paddingZeros (used cap : Nat) : Nat :=
  let terminator := if used + 4 ≤ cap then 4 else 0
  terminator + (8 - (used + terminator) % 8) % 8

/-- The data codewords of block `b` of `d` codewords: the consecutive bytes of the bit buffer after those of the blocks
before it (43_assembler.md R257). -/
def blockData (bits : List Bool) (blocks : List (Nat × Nat)) (b d : Nat) : List Byte :=
  (List.range d).map (fun j => bbByte bits (((blocks.take b).map Prod.snd).sum + j))

/-- Where codeword `i` of block `b` stands in the column-major reading: after the first `i` codewords of every block and
codeword `i` of the blocks before `b` that have one (R258). -/
def columnPlace (blocks : List (List Byte)) (b i : Nat) : Nat :=
  (blocks.map (fun c => min i c.length)).sum + ((blocks.take b).filter (fun c => decide (i < c.length))).length

/-! ## Errors a command may end with (60_exceptions.md R392) -/

/-- The codes of R392's table, with 0 for success. -/
def Instr.errors : Instr → List ErrCode
  | .nop => [.none]
  | .sreset => [.none]
  | .gfExp => [.none]
  | .gfLog => [.none, .gfLogZero, .badArgument]
  | .polyMul _ _ _ => [.none, .badArgument, .resourceLimit, .gfLogZero]
  | .polyMod _ _ _ => [.none, .badArgument, .gfLogZero]
  | .polyGen _ => [.none, .resourceLimit]
  | .rsEcc _ _ => [.none, .badArgument, .resourceLimit, .gfLogZero]
  | .bbClear => [.none]
  | .bbPut => [.none, .badArgument, .resourceLimit]
  | .segWrite => [.none, .badArgument, .invalidCharacter, .codeTooLarge, .resourceLimit]
  | .build => [.none, .badArgument, .invalidMaskPattern]
  | .bchFmt => [.none, .badArgument]
  | .bchVer => [.none, .badArgument]
  | .maskBit => [.none, .badArgument, .invalidMaskPattern]
  | .penalty => [.none, .badArgument]
  | .encode => [.none, .badArgument, .invalidCharacter, .codeTooLarge]
  | .isDark => [.none, .outOfRange]

/-! ## ENCODE's premises -/

/-- `segs` are the segments of descriptors 0..SEG_COUNT−1, all well formed (46_control.md R352, phase 1). -/
def State.HasSegments (s : State) (segs : List Segment) : Prop :=
  segs.length = s.segCount.toNat ∧ ∀ k g, segs[k]? = some g →
    s.segMode k = Mode.indicator g.mode ∧ s.segStart k + s.segLen k ≤ Config.textCap ∧ g.chars = s.segChars k

/-- Every character of a segment is valid for its mode (42_segments.md R214, R215). -/
def Segment.Valid (g : Segment) : Prop := ∀ c ∈ g.chars, validChar g.mode c = true

/-- The version ENCODE uses: CFG_VERSION when it is not 0, else the smallest of 1..40 that fits (43_assembler.md
R250). -/
def VersionChosen (cfg : Nat) (segs : List Segment) (ecl : Level) (v : Nat) : Prop :=
  (cfg ≠ 0 ∧ v = cfg) ∨
  (cfg = 0 ∧ 1 ≤ v ∧ v ≤ Config.versionMax ∧ totalBits segs v ≤ capbits v ecl ∧
    ∀ u, 1 ≤ u → u < v → capbits u ecl < totalBits segs u)

end Sys2Proof.Machine
end

