-- ==== Sys2Proof/Certificates/Slice0/Obligations.lean ====
section
/-! DEFINITION. The statements for the provers. A result statement names every field the command changes: what it does
not name is unchanged. Where a command stores to the windows, the statement gives every stored byte at the place the
command computes and says that every other offset reads as before. -/

open Sys2Proof Sys2Proof.Machine

/-! ## Encoding -/

/-- Every command has a well-formed word (R111), and decoding its word gives it back with every register operand
(R110, R114, R117). -/
def Obligations.DecodeGivesBackEveryEncodedCommand : Prop :=
  ∀ i : Instr, i.wellFormed = true ∧ decode (encode i) = .ok i

/-- The legal words are those R112 describes, and each of them is the word of the one command it decodes to. -/
def Obligations.LegalWordsAreExactlyTheEncodings : Prop :=
  ∀ w : Word, (∀ i, decode w = .ok i ↔ w = encode i) ∧ ((∃ i, decode w = .ok i) ↔ LegalWord w)

/-- Words written out from the fields of R110 and the opcode map of R114, one or more of each family, and words R115
calls illegal. -/
def Obligations.FamilyWordsDecode : Prop :=
  decode 0x00000000#32 = .ok .nop ∧
  decode 0x00000001#32 = .ok .sreset ∧
  decode 0x00000010#32 = .ok .gfExp ∧
  decode 0x00001212#32 = .ok (.polyMul .p2 .p0 .p1) ∧
  decode 0x00002D13#32 = .ok (.polyMod .p1 .p3 .p2) ∧
  decode 0x00000314#32 = .ok (.polyGen .p3) ∧
  decode 0x00000715#32 = .ok (.rsEcc .p3 .p1) ∧
  decode 0x00000021#32 = .ok .bbPut ∧
  decode 0x00000022#32 = .ok .segWrite ∧
  decode 0x00000030#32 = .ok .build ∧
  decode 0x00000033#32 = .ok .maskBit ∧
  decode 0x00000040#32 = .ok .penalty ∧
  decode 0x00000050#32 = .ok .encode ∧
  decode 0x00000051#32 = .ok .isDark ∧
  decode 0x00000002#32 = .error .reservedOpcode ∧
  decode 0x00004000#32 = .error .reservedBits ∧
  decode 0x00000100#32 = .error .unusedField ∧
  decode 0x00000414#32 = .error .unusedField ∧
  decode 0x00001015#32 = .error .unusedField

/-! ## The step and the command cycle -/

/-- With the reset input released, a captured word that decodes to `i` runs as `exec i`: at once with no host access left
before it, or when the host does nothing (log 4). Otherwise the next host action takes effect; an accepted command
leaves DONE and ERR 0 (R381). What `withFetchWord` places is what the next step runs (log 6). A step while the reset
input is held is HardResetGivesTheStatedValues. -/
def Obligations.StepRunsTheCapturedCommandOrTheHost : Prop :=
  ∀ s : State,
    (s.rst = false →
      (∀ w n i, s.seq = .busy w n → (n = 0 ∨ s.bus = []) → decode w = .ok i → step s = exec i s) ∧
      (s.seq = .idle → s.bus = [] → step s = .next s) ∧
      (∀ e rest, s.seq = .idle → s.bus = e :: rest → step s = .next (State.busEvent { s with bus := rest } e)) ∧
      (∀ w n e rest, s.seq = .busy w (n + 1) → s.bus = e :: rest →
        step s = .next (State.busEvent { s with bus := rest, seq := .busy w n } e)) ∧
      (∀ w rest, s.seq = .idle → s.bus = .write 0x0000C#17 .word w :: rest →
        step s = .next { s with
          bus := rest, seq := .busy w (s.latency.headD 0), latency := s.latency.tail, done := false, err := .none,
          resp := .ok })) ∧
    (∀ i, step (s.withFetchWord 32 (encode i).toNat) = exec i (s.withFetchWord 32 (encode i).toNat))

/-- R382: with the reset input released, a captured word with a reserved opcode, a nonzero reserved bit or a nonzero
unused field completes with code 8, and only STATUS changes (BUSY, DONE, ERR). -/
def Obligations.IllegalWordChangesOnlyStatus : Prop :=
  ErrCode.code .illegalCommand = 8#4 ∧
  ∀ (s : State) (w : Word), s.rst = false → s.seq = .busy w 0 → ¬ LegalWord w →
    step s = .next { s with seq := .idle, done := true, err := .illegalCommand }

/-- Every command completes from every state: DONE is 1, the core is IDLE again, and the code is one of the command's
own (R381, R394, R392); and no step of the machine ever stops (R440). -/
def Obligations.EveryCommandCompletes : Prop :=
  (∀ (i : Instr) (s : State), ∃ t, exec i s = .next t ∧ t.seq = .idle ∧ t.done = true ∧ t.err ∈ Instr.errors i) ∧
  ∀ s : State, ∃ t, step s = .next t

/-- A captured command with `n` host accesses to come is over after at most `n + 1` steps, and unless the reset input
is held or abandoned it, it completed with DONE = 1 (R440, R420; the delay is the model's, log 4). -/
def Obligations.CommandFinishesWithinItsDelay : Prop :=
  ∀ (s : State) (w : Word) (n : Nat), s.seq = .busy w n →
    ∃ k t, k ≤ n + 1 ∧ Host.Core.run Sys2Proof.core k s = .next t ∧ t.busy = false ∧
      (s.rst = false → (∀ c, BusEvent.rstAssert c ∉ s.bus.take n) → t.done = true)

/-! ## The bus -/

/-- In an idle core the reserved slots read 0 and ignore writes; an unmapped, misaligned or narrow access is a bus error
that changes nothing, busy or not (R88). That an ignored write is answered as a write taken (`.ok`) is the model's choice
(log 19), as is the field that holds the response (log 7). -/
def Obligations.UnmappedAccessesGetABusError : Prop :=
  ∀ (s : State) (a : Addr) (w : Width) (v : Word),
    (s.seq = .idle → a.toNat % 4 = 0 →
      (a.toNat = 0x0001C ∨ a.toNat = 0x00028 ∨ a.toNat = 0x0002C ∨ a.toNat = 0x0003C ∨ a.toNat = 0x00058 ∨
        a.toNat = 0x0005C ∨ (0x00070 ≤ a.toNat ∧ a.toNat < 0x01000)) →
      s.hostRead a .word = { s with resp := .data 0#32 } ∧ s.hostWrite a .word v = { s with resp := .ok }) ∧
    ((w ≠ .word ∨ a.toNat % 4 ≠ 0 ∨ (0x02200 ≤ a.toNat ∧ a.toNat < 0x04000) ∨
        (0x06E30 ≤ a.toNat ∧ a.toNat < 0x08000) ∨ (0x0B9E8 ≤ a.toNat ∧ a.toNat < 0x10000) ∨ 0x18000 ≤ a.toNat) →
      s.hostRead a w = { s with resp := .error } ∧ s.hostWrite a w v = { s with resp := .error })

/-- While BUSY a write to any location but STATUS and CTRL is dropped and sets OVERRUN, and a read of any location but
ID, CTRL, STATUS and CMD answers a free value, whatever it is (R96; the drawn value and its counter are the model's,
log 5; the answer to a dropped write is its choice, log 19). A write to STATUS or CTRL sets no OVERRUN. -/
def Obligations.BusyAccessesDropWritesAndDrawReads : Prop :=
  ∀ (s : State) (a : Addr) (v : Word), s.busy = true → Mapped a →
    (a ≠ 0x00004#17 → a ≠ 0x00008#17 → s.hostWrite a .word v = { s with overrun := true, resp := .ok }) ∧
    (a ≠ 0x00000#17 → a ≠ 0x00004#17 → a ≠ 0x00008#17 → a ≠ 0x0000C#17 →
      s.hostRead a .word =
        { s with resp := .data (Config.busyReadValue s.draws), draws := s.draws + 1 }) ∧
    s.hostRead 0x00000#17 .word = { s with resp := .data 0x51524331#32 } ∧
    s.hostRead 0x0000C#17 .word = { s with resp := .data 0x00000000#32 } ∧
    s.hostWrite 0x00004#17 .word v = { s with ie := v.getLsbD 0, resp := .ok } ∧
    (s.overrun = false → (s.hostWrite 0x00008#17 .word v).overrun = false)

/-- A word written to a PR, CW, SEGDESC or TEXT place reads back through its mask, and no other location reads
differently (R86, R87, R90). -/
def Obligations.StoredWindowsReadBack : Prop :=
  ∀ (s : State) (v : Word), s.seq = .idle → s.MemoryCanonical →
    (∀ k i, i < 256 →
      ((s.hostWrite (offset (prAddr k i)) .word v).hostRead (offset (prAddr k i)) .word).resp =
        .data (v &&& 0x000000FF#32)) ∧
    (∀ i, i < 3706 →
      ((s.hostWrite (offset (cwAddr i)) .word v).hostRead (offset (cwAddr i)) .word).resp =
        .data (v &&& 0x000000FF#32)) ∧
    (∀ k, k < 64 →
      ((s.hostWrite (offset (segModeAddr k)) .word v).hostRead (offset (segModeAddr k)) .word).resp =
        .data (v &&& 0x0000000F#32)) ∧
    (∀ k, k < 64 →
      ((s.hostWrite (offset (segPosAddr k)) .word v).hostRead (offset (segPosAddr k)) .word).resp = .data v) ∧
    (∀ i, i < 8192 →
      ((s.hostWrite (offset (textAddr i)) .word v).hostRead (offset (textAddr i)) .word).resp = .data v) ∧
    (∀ a b, Mapped a → 0x01000 ≤ a.toNat → b ≠ a →
      ((s.hostWrite a .word v).hostRead b .word).resp = (s.hostRead b .word).resp)

/-- The registers of an idle core: what each write stores and each read answers, that the read-only ones ignore writes,
and that no read changes the core (R31, R36–R47, R55, R85). That a write a read-only register ignores is answered as a
write taken (`.ok`) is the model's choice (log 19). -/
def Obligations.RegisterAccessesGoThroughTheirMasks : Prop :=
  ∀ (s : State) (v : Word), s.seq = .idle →
    (∀ a w, ∃ r d, s.hostRead a w = { s with resp := r, draws := d }) ∧
    s.hostWrite 0x00010#17 .word v = { s with arg0 := v, resp := .ok } ∧
    s.hostWrite 0x00014#17 .word v = { s with arg1 := v, resp := .ok } ∧
    s.hostWrite 0x00018#17 .word v = { s with arg2 := v, resp := .ok } ∧
    s.hostWrite 0x00030#17 .word v = { s with cfgEcl := v.extractLsb' 0 2, resp := .ok } ∧
    s.hostWrite 0x00034#17 .word v = { s with cfgVersion := v.extractLsb' 0 6, resp := .ok } ∧
    s.hostWrite 0x00038#17 .word v = { s with segCount := v.extractLsb' 0 7, resp := .ok } ∧
    s.hostWrite 0x00054#17 .word v = { s with cwLen := v.extractLsb' 0 12, resp := .ok } ∧
    s.hostWrite 0x00060#17 .word v = { s with plen0 := v.extractLsb' 0 9, resp := .ok } ∧
    s.hostWrite 0x00064#17 .word v = { s with plen1 := v.extractLsb' 0 9, resp := .ok } ∧
    s.hostWrite 0x00068#17 .word v = { s with plen2 := v.extractLsb' 0 9, resp := .ok } ∧
    s.hostWrite 0x0006C#17 .word v = { s with plen3 := v.extractLsb' 0 9, resp := .ok } ∧
    (∀ a ∈ [0x00000#17, 0x00020#17, 0x00024#17, 0x00040#17, 0x00044#17, 0x00048#17, 0x0004C#17, 0x00050#17],
      s.hostWrite a .word v = { s with resp := .ok }) ∧
    (s.hostRead 0x00000#17 .word).resp = .data 0x51524331#32 ∧
    (s.hostRead 0x0000C#17 .word).resp = .data 0#32 ∧
    (s.hostRead 0x00010#17 .word).resp = .data s.arg0 ∧
    (s.hostRead 0x00014#17 .word).resp = .data s.arg1 ∧
    (s.hostRead 0x00018#17 .word).resp = .data s.arg2 ∧
    (s.hostRead 0x00020#17 .word).resp = .data s.res0 ∧
    (s.hostRead 0x00024#17 .word).resp = .data s.res1 ∧
    (s.hostRead 0x00030#17 .word).resp = .data (s.cfgEcl.setWidth 32) ∧
    (s.hostRead 0x00034#17 .word).resp = .data (s.cfgVersion.setWidth 32) ∧
    (s.hostRead 0x00038#17 .word).resp = .data (s.segCount.setWidth 32) ∧
    (s.hostRead 0x00040#17 .word).resp = .data (s.moduleCount.setWidth 32) ∧
    (s.hostRead 0x00044#17 .word).resp = .data (s.symVersion.setWidth 32) ∧
    (s.hostRead 0x00048#17 .word).resp = .data (s.symMask.setWidth 32) ∧
    (s.hostRead 0x0004C#17 .word).resp = .data (s.symEcl.setWidth 32) ∧
    (s.hostRead 0x00050#17 .word).resp = .data (BitVec.ofNat 32 s.bb.length) ∧
    (s.hostRead 0x00054#17 .word).resp = .data (s.cwLen.setWidth 32) ∧
    (s.hostRead 0x00060#17 .word).resp = .data (s.plen0.setWidth 32) ∧
    (s.hostRead 0x00064#17 .word).resp = .data (s.plen1.setWidth 32) ∧
    (s.hostRead 0x00068#17 .word).resp = .data (s.plen2.setWidth 32) ∧
    (s.hostRead 0x0006C#17 .word).resp = .data (s.plen3.setWidth 32)

/-- STATUS, busy or not: each bit a read answers, and what a write clears (R34). -/
def Obligations.StatusWordAndWriteOneToClear : Prop :=
  ∀ s : State,
    (∃ v : Word, s.hostRead 0x00008#17 .word = { s with resp := .data v } ∧
      v.getLsbD 0 = decide (s.seq ≠ .idle) ∧ v.getLsbD 1 = s.done ∧ v.getLsbD 2 = s.overrun ∧
      v.getLsbD 3 = decide (s.gridState = .committed) ∧ v.extractLsb' 4 4 = 0#4 ∧
      v.extractLsb' 8 4 = s.err.code ∧ v.extractLsb' 12 20 = 0#20) ∧
    ∀ v : Word, s.hostWrite 0x00008#17 .word v =
      { s with
        done := if v.getLsbD 1 then false else s.done
        overrun := if v.getLsbD 2 then false else s.overrun
        resp := .ok }

/-- R33 and R54. CTRL, busy or not: it reads IE in bit 0 and 0 elsewhere, a write stores bit 0, it resets to 0. `irq` is
IE and DONE; it is high after a completion exactly when IE is 1 (SRESET clears IE), and low once DONE is cleared by a
write to STATUS or by the acceptance of the next command, once IE is cleared, and at reset. -/
def Obligations.CtrlEnablesTheInterrupt : Prop :=
  (∀ s : State,
    s.hostRead 0x00004#17 .word = { s with resp := .data (if s.ie then 1#32 else 0#32) } ∧
    (∀ v : Word, s.hostWrite 0x00004#17 .word v = { s with ie := v.getLsbD 0, resp := .ok }) ∧
    s.irq = (s.ie && s.done) ∧
    (∀ i t, exec i s = .next t → t.irq = t.ie) ∧
    (∀ v : Word, v.getLsbD 1 = true → (s.hostWrite 0x00008#17 .word v).irq = false) ∧
    (∀ v : Word, v.getLsbD 0 = false → (s.hostWrite 0x00004#17 .word v).irq = false) ∧
    (∀ v : Word, s.seq = .idle → (s.hostWrite 0x0000C#17 .word v).irq = false)) ∧
  State.reset.ie = false ∧ State.reset.ctrlWord = 0x00000000#32 ∧ State.reset.irq = false

/-- No command reads a flag: with other values of DONE, OVERRUN and ERR it does the same (R57). -/
def Obligations.CommandsIgnoreTheFlags : Prop :=
  ∀ (i : Instr) (s t : State) (d o : Bool) (e : ErrCode), exec i s = .next t →
    exec i { s with done := d, overrun := o, err := e } =
      .next { t with overrun := if i = .sreset then false else o }

/-! ## Reset -/

/-- The values R421 states, at reset, and at and after the assertion of the reset input in any state, which abandons a
command in flight; the stored windows come up with any canonical contents (R421's parameter, log 8). While the input is
held every step gives those values, so a write stores nothing and starts nothing; the release leaves them (R420). The
model's choices: the responses to accesses while the input is held, a read's answer from those values, `.ok` to a write
at a mapped offset and `.error` otherwise (log 21); pending actions, delays and draws are kept (logs 4 to 6); and an edge
of the input leaves no response, `.none` (log 7). -/
def Obligations.HardResetGivesTheStatedValues : Prop :=
  (State.reset.seq = .idle ∧ State.reset.ie = false ∧ State.reset.statusWord = 0#32 ∧ State.reset.arg0 = 0#32 ∧
    State.reset.arg1 = 0#32 ∧ State.reset.arg2 = 0#32 ∧ State.reset.res0 = 0#32 ∧ State.reset.res1 = 0#32 ∧
    State.reset.cfgEcl = 0#2 ∧ State.reset.cfgVersion = 0#6 ∧ State.reset.segCount = 0#7 ∧
    State.reset.moduleCount = 0#8 ∧ State.reset.symVersion = 0#6 ∧ State.reset.symMask = 0#3 ∧
    State.reset.symEcl = 0#2 ∧ State.reset.bb = [] ∧ State.reset.cwLen = 0#12 ∧ (∀ k, State.reset.plen k = 1#9) ∧
    State.reset.gridState = .empty ∧ State.reset.irq = false) ∧
  ∀ s : State,
    (s.rst = false →
      (∀ c, ∃ m : Memory, m.wf = true ∧ s.busEvent (.rstAssert c) =
        { State.reset with mem := m, rst := true, bus := s.bus, latency := s.latency, draws := s.draws }) ∧
      (∀ m : Memory, m.wf = true → ∃ c, s.busEvent (.rstAssert c) =
        { State.reset with mem := m, rst := true, bus := s.bus, latency := s.latency, draws := s.draws }) ∧
      s.busEvent .rstRelease = { s with resp := .none }) ∧
    (s.rst = true → ∀ held : State,
      held = { State.reset with
        mem := s.mem, rst := true, bus := s.bus.tail, resp := s.resp, latency := s.latency, draws := s.draws } →
      (s.bus = [] → step s = .next held) ∧
      (∀ a w rest, s.bus = .read a w :: rest → step s = .next (held.hostRead a w)) ∧
      (∀ a w v rest, s.bus = .write a w v :: rest → w = .word → Mapped a → step s = .next { held with resp := .ok }) ∧
      (∀ a w v rest, s.bus = .write a w v :: rest → (w ≠ .word ∨ ¬ Mapped a) →
        step s = .next { held with resp := .error }) ∧
      (∀ c rest, s.bus = .rstAssert c :: rest → step s = .next { held with resp := .none }) ∧
      (∀ rest, s.bus = .rstRelease :: rest → step s = .next { held with rst := false, resp := .none }))

/-- R351: SRESET gives every register its reset value and empties the bit buffer and the grid, keeps the stored
windows, and completes: STATUS is 0x2, `irq` is 0, and each PR register holds one coefficient. -/
def Obligations.SresetResetsRegistersAndKeepsMemories : Prop :=
  encode .sreset = 0x00000001#32 ∧
  ∀ s : State, ∃ t, exec .sreset s = .next t ∧
    t = { State.reset with
      mem := s.mem, rst := s.rst, bus := s.bus, resp := s.resp, latency := s.latency, draws := s.draws
      done := true } ∧
    t.statusWord = 0x00000002#32 ∧ t.irq = false ∧ t.moduleCount = 0#8 ∧ t.bb = [] ∧
    (∀ k, t.polyRaw k = [s.mem.read (prAddr k 0)])

/-! ## GF(256) -/

/-- The tables are the powers of α: EXP by repeated doubling, LOG its inverse on 1..255 (R140, R141, R143, R144). -/
def Obligations.GfTablesAreThePowersOfAlpha : Prop :=
  (∀ n : Int, gfExp n = Nat.iterate gfDouble (n % 255).toNat 1#8 ∧ gfExp n ≠ 0#8 ∧ gfExp (n + 255) = gfExp n) ∧
  (∀ n : Int, 1 ≤ n → n ≤ 255 → ∃ l : Nat, l ≤ 254 ∧ gfLog n = .ok l ∧ ((gfExp l).toNat : Int) = n) ∧
  (∀ l : Nat, l ≤ 254 → gfLog ((gfExp l).toNat : Int) = .ok l) ∧
  (∀ n : Int, n < 1 → gfLog n = .error .gfLogZero) ∧
  (∀ n : Int, 255 < n → gfLog n = .error .badArgument)

/-- R145: RES0 is α to the n mod 255, n = ARG0 read signed; RES1 and all else unchanged; the rule's corner cases. -/
def Obligations.GfExpCommand : Prop :=
  encode .gfExp = 0x00000010#32 ∧
  (∀ s : State, exec .gfExp s = .next { s with
    res0 := (Nat.iterate gfDouble (s.arg0.toInt % 255).toNat 1#8).setWidth 32
    seq := .idle, done := true, err := .none }) ∧
  ∀ p ∈ [(0x00000000#32, 0x01#32), (0x000000FF#32, 0x01#32), (0xFFFFFFFF#32, 0x8E#32), (0x7FFFFFFF#32, 0xCC#32),
      (0x80000000#32, 0xCC#32), (0x00000008#32, 0x1D#32)],
    ∀ s : State, s.arg0 = p.1 → exec .gfExp s = .next { s with
      res0 := p.2, seq := .idle, done := true, err := .none }

/-- R146: for n = ARG0 read signed in 1..255, RES0 is the l in 0..254 with α to the l = n; below 1 GfLogZero, above 255
BadArgument, with only STATUS changed; the rule's corner cases. -/
def Obligations.GfLogCommand : Prop :=
  encode .gfLog = 0x00000011#32 ∧
  (∀ s : State,
    (1 ≤ s.arg0.toInt → s.arg0.toInt ≤ 255 → ∃ l : Nat, l ≤ 254 ∧
      ((Nat.iterate gfDouble l 1#8).toNat : Int) = s.arg0.toInt ∧
      exec .gfLog s = .next { s with res0 := BitVec.ofNat 32 l, seq := .idle, done := true, err := .none }) ∧
    (s.arg0.toInt < 1 → exec .gfLog s = .next { s with seq := .idle, done := true, err := .gfLogZero }) ∧
    (255 < s.arg0.toInt → exec .gfLog s = .next { s with seq := .idle, done := true, err := .badArgument })) ∧
  (∀ p ∈ [(0x01#32, 0#32), (0x02#32, 1#32), (0x8E#32, 254#32), (0x1D#32, 8#32)],
    ∀ s : State, s.arg0 = p.1 → exec .gfLog s = .next { s with
      res0 := p.2, seq := .idle, done := true, err := .none }) ∧
  ∀ s : State, s.arg0 = 0x80000000#32 →
    exec .gfLog s = .next { s with seq := .idle, done := true, err := .gfLogZero }

/-! ## Polynomials -/

/-- `norm` strips leading zeros and keeps at least one coefficient, and a register read as an operand is the norm of its
PLEN coefficients (R142). -/
def Obligations.NormStripsLeadingZeros : Prop :=
  (∀ p : List Byte, p ≠ [] →
    (∃ k, p = List.replicate k 0#8 ++ norm p) ∧ norm p ≠ [] ∧ (norm p = [0#8] ∨ (norm p).head? ≠ some 0#8) ∧
    norm (norm p) = norm p) ∧
  ∀ (s : State) (k : PReg), ∃ p : List Byte, p.length = (s.plen k).toNat ∧
    (∀ i, i < p.length → p.getD i 0#8 = s.mem.read (0x01000 + 0x400 * PReg.index k + 4 * i)) ∧
    s.polyOperand k = norm p

/-- POLY_MUL on operands of legal lengths with no zero coefficient and a product that fits: coefficient k of the result
is the convolution, stored from PR[RD].c[0] on; PLEN[RD] is its length; RD may be RA or RB (R147, R148). -/
def Obligations.PolyMulConvolves : Prop :=
  ∀ (s : State) (d a b : PReg), s.MemoryCanonical →
    1 ≤ (s.plen a).toNat → (s.plen a).toNat ≤ 256 → 1 ≤ (s.plen b).toNat → (s.plen b).toNat ≤ 256 →
    (∀ x ∈ s.polyOperand a, x ≠ 0#8) → (∀ x ∈ s.polyOperand b, x ≠ 0#8) →
    (s.polyOperand a).length + (s.polyOperand b).length - 1 ≤ 256 →
    ∃ m : Memory,
      exec (.polyMul d a b) s = .next
        { s.setPlen d (BitVec.ofNat 9 ((s.polyOperand a).length + (s.polyOperand b).length - 1)) with
          mem := m, seq := .idle, done := true, err := .none } ∧
      (∀ k, k < (s.polyOperand a).length + (s.polyOperand b).length - 1 →
        m.read (prAddr d k) = productCoeff (s.polyOperand a) (s.polyOperand b) k) ∧
      (∀ x, (∀ k, k < (s.polyOperand a).length + (s.polyOperand b).length - 1 → x ≠ prAddr d k) →
        m.read x = s.mem.read x)

/-- POLY_MUL's errors in order, each with only STATUS changed: a length outside 1..256, a product longer than 256, a
zero coefficient (R148). -/
def Obligations.PolyMulRaisesInOrder : Prop :=
  ∀ (s : State) (d a b : PReg),
    ((¬ (1 ≤ (s.plen a).toNat ∧ (s.plen a).toNat ≤ 256) ∨ ¬ (1 ≤ (s.plen b).toNat ∧ (s.plen b).toNat ≤ 256)) →
      exec (.polyMul d a b) s = .next { s with seq := .idle, done := true, err := .badArgument }) ∧
    (1 ≤ (s.plen a).toNat → (s.plen a).toNat ≤ 256 → 1 ≤ (s.plen b).toNat → (s.plen b).toNat ≤ 256 →
      (256 < (s.polyOperand a).length + (s.polyOperand b).length - 1 →
        exec (.polyMul d a b) s = .next { s with seq := .idle, done := true, err := .resourceLimit }) ∧
      ((s.polyOperand a).length + (s.polyOperand b).length - 1 ≤ 256 →
        (0#8 ∈ s.polyOperand a ∨ 0#8 ∈ s.polyOperand b) →
        exec (.polyMul d a b) s = .next { s with seq := .idle, done := true, err := .gfLogZero }))

/-- `pmod` on normalised operands: a shorter dividend is the result; a divisor of length 1, or with a zero coefficient,
is GfLogZero when the dividend is not shorter; any other division ends with a normalised result shorter than the
divisor (R149). -/
def Obligations.PolynomialRemainder : Prop :=
  ∀ a b : List Byte, a ≠ [] → b ≠ [] → norm a = a → norm b = b →
    (a.length < b.length → pmod a b = .ok a) ∧
    (b.length ≤ a.length → (b.length = 1 ∨ 0#8 ∈ b) → pmod a b = .error .gfLogZero) ∧
    (2 ≤ b.length → (∀ x ∈ b, x ≠ 0#8) →
      ∃ r, pmod a b = .ok r ∧ r.length < b.length ∧ r ≠ [] ∧ norm r = r)

/-- The remainder is one: the dividend is a product of the divisor plus the remainder, coefficient by coefficient
(R149's long division). -/
def Obligations.RemainderLeavesAMultiple : Prop :=
  ∀ a b r : List Byte, norm a = a → 2 ≤ b.length → (∀ x ∈ b, x ≠ 0#8) → b.length ≤ a.length → pmod a b = .ok r →
    ∃ q : List Byte, q.length = a.length - b.length + 1 ∧
      ∀ k, k < a.length → a.getD k 0#8 = productCoeff q b k ^^^ (padLeft a.length r).getD k 0#8

/-- POLY_MOD: the remainder stored in PR[RD] where R149 gives one, its errors with only STATUS changed otherwise
(R150). -/
def Obligations.PolyModCommand : Prop :=
  ∀ (s : State) (d a b : PReg), s.MemoryCanonical →
    ((¬ (1 ≤ (s.plen a).toNat ∧ (s.plen a).toNat ≤ 256) ∨ ¬ (1 ≤ (s.plen b).toNat ∧ (s.plen b).toNat ≤ 256)) →
      exec (.polyMod d a b) s = .next { s with seq := .idle, done := true, err := .badArgument }) ∧
    (1 ≤ (s.plen a).toNat → (s.plen a).toNat ≤ 256 → 1 ≤ (s.plen b).toNat → (s.plen b).toNat ≤ 256 →
      ((s.polyOperand b).length ≤ (s.polyOperand a).length →
        ((s.polyOperand b).length = 1 ∨ 0#8 ∈ s.polyOperand b) →
        exec (.polyMod d a b) s = .next { s with seq := .idle, done := true, err := .gfLogZero }) ∧
      (((s.polyOperand a).length < (s.polyOperand b).length ∨
          (2 ≤ (s.polyOperand b).length ∧ ∀ x ∈ s.polyOperand b, x ≠ 0#8)) →
        ∃ (r : List Byte) (m : Memory),
          pmod (s.polyOperand a) (s.polyOperand b) = .ok r ∧
          ((s.polyOperand a).length < (s.polyOperand b).length → r = s.polyOperand a) ∧
          r.length < (s.polyOperand b).length ∧
          exec (.polyMod d a b) s = .next
            { s.setPlen d (BitVec.ofNat 9 r.length) with mem := m, seq := .idle, done := true, err := .none } ∧
          (∀ k, k < r.length → m.read (prAddr d k) = r.getD k 0#8) ∧
          (∀ x, (∀ k, k < r.length → x ≠ prAddr d k) → m.read x = s.mem.read x)))

/-- The generator polynomials of every degree up to 255: e + 1 coefficients, the first 1, none zero up to e = 254, and
x^255 + 1 for e = 255; the rule's two worked polynomials (R151). -/
def Obligations.GeneratorPolynomials : Prop :=
  (∀ e, e ≤ 254 → ∃ g : List Byte, gen e = .ok g ∧ g.length = e + 1 ∧ g.head? = some 1#8 ∧ ∀ x ∈ g, x ≠ 0#8) ∧
  gen 255 = .ok (1#8 :: (List.replicate 254 0#8 ++ [1#8])) ∧
  gen 0 = .ok [1#8] ∧
  gen 7 = .ok [0x01#8, 0x7F#8, 0x7A#8, 0x9A#8, 0xA4#8, 0x0B#8, 0x44#8, 0x75#8] ∧
  gen 10 = .ok [0x01#8, 0xD8#8, 0xC2#8, 0x9F#8, 0x6F#8, 0xC7#8, 0x5E#8, 0x5F#8, 0x71#8, 0x9D#8, 0xC1#8]

/-- POLY_GEN: gen(e) stored in PR[RD] for e = ARG0 up to 255, ResourceLimit above (R152). -/
def Obligations.PolyGenCommand : Prop :=
  ∀ (s : State) (d : PReg), s.MemoryCanonical →
    (255 < s.arg0.toNat →
      exec (.polyGen d) s = .next { s with seq := .idle, done := true, err := .resourceLimit }) ∧
    (s.arg0.toNat ≤ 255 → ∃ (g : List Byte) (m : Memory),
      gen s.arg0.toNat = .ok g ∧ g.length = s.arg0.toNat + 1 ∧
      exec (.polyGen d) s = .next
        { s.setPlen d (BitVec.ofNat 9 (s.arg0.toNat + 1)) with mem := m, seq := .idle, done := true, err := .none } ∧
      (∀ k, k ≤ s.arg0.toNat → m.read (prAddr d k) = g.getD k 0#8) ∧
      (∀ x, (∀ k, k ≤ s.arg0.toNat → x ≠ prAddr d k) → m.read x = s.mem.read x))

/-- RS_ECC: the e check codewords of the raw data block stored in PR[RD] for e = ARG0 in 1..254; for e = 255 only of an
all-zero block; its errors in order with only STATUS changed (R153, R154). -/
def Obligations.RsEccCommand : Prop :=
  ∀ (s : State) (d a : PReg), s.MemoryCanonical →
    ((¬ (1 ≤ (s.plen a).toNat ∧ (s.plen a).toNat ≤ 256) ∨ s.arg0 = 0#32) →
      exec (.rsEcc d a) s = .next { s with seq := .idle, done := true, err := .badArgument }) ∧
    (1 ≤ (s.plen a).toNat → (s.plen a).toNat ≤ 256 →
      (255 < s.arg0.toNat →
        exec (.rsEcc d a) s = .next { s with seq := .idle, done := true, err := .resourceLimit }) ∧
      (s.arg0.toNat = 255 → (∃ x ∈ s.polyRaw a, x ≠ 0#8) →
        exec (.rsEcc d a) s = .next { s with seq := .idle, done := true, err := .gfLogZero }) ∧
      (1 ≤ s.arg0.toNat → (s.arg0.toNat ≤ 254 ∨ (s.arg0.toNat = 255 ∧ ∀ x ∈ s.polyRaw a, x = 0#8)) →
        ∃ (r : List Byte) (m : Memory),
          rsEcc (s.polyRaw a) s.arg0.toNat = .ok r ∧ r.length = s.arg0.toNat ∧
          ((∀ x ∈ s.polyRaw a, x = 0#8) → r = List.replicate s.arg0.toNat 0#8) ∧
          exec (.rsEcc d a) s = .next
            { s.setPlen d (BitVec.ofNat 9 s.arg0.toNat) with mem := m, seq := .idle, done := true, err := .none } ∧
          (∀ k, k < s.arg0.toNat → m.read (prAddr d k) = r.getD k 0#8) ∧
          (∀ x, (∀ k, k < s.arg0.toNat → x ≠ prAddr d k) → m.read x = s.mem.read x)))

/-- A data block followed by its check codewords is a multiple of the generator polynomial: what makes the codewords
Reed-Solomon check symbols (R153, 90_conflicts.md C1). -/
def Obligations.RsBlockIsAMultipleOfTheGenerator : Prop :=
  ∀ (data : List Byte) (e : Nat), 1 ≤ e → e ≤ 254 →
    ∃ (g ec : List Byte), gen e = .ok g ∧ rsEcc data e = .ok ec ∧ ec.length = e ∧
      pmod (norm (data ++ ec)) g = .ok [0#8]

/-! ## Bit buffer and segments -/

/-- R211: BB_CLEAR empties the buffer, BB_LEN becomes 0, and the byte view then reads 0 everywhere. -/
def Obligations.BbClearCommand : Prop :=
  encode .bbClear = 0x00000020#32 ∧
  ∀ s : State, ∃ t, exec .bbClear s = .next t ∧
    t = { s with bb := [], seq := .idle, done := true, err := .none } ∧ t.bbLen = 0 ∧
    (∀ i, i < 2956 → (t.hostRead (offset (0x04000 + 4 * i)) .word).resp = .data 0#32)

/-- R212: BB_PUT appends bits w−1 down to 0 of ARG0 for w = ARG1 up to 32 and room in the buffer; BadArgument for a
wider field, then ResourceLimit, with only STATUS changed; the rule's worked example. -/
def Obligations.BbPutCommand : Prop :=
  encode .bbPut = 0x00000021#32 ∧
  (∀ s : State,
    (s.arg1.toNat ≤ 32 → s.bb.length + s.arg1.toNat ≤ 23648 →
      exec .bbPut s = .next { s with
        bb := s.bb ++ (List.range s.arg1.toNat).map (fun k => s.arg0.getLsbD (s.arg1.toNat - 1 - k))
        seq := .idle, done := true, err := .none }) ∧
    (32 < s.arg1.toNat → exec .bbPut s = .next { s with seq := .idle, done := true, err := .badArgument }) ∧
    (s.arg1.toNat ≤ 32 → 23648 < s.bb.length + s.arg1.toNat →
      exec .bbPut s = .next { s with seq := .idle, done := true, err := .resourceLimit })) ∧
  ∀ s : State, s.bb = [] → s.arg0 = 0x12#32 → s.arg1 = 4#32 → ∃ t, exec .bbPut s = .next t ∧
    t.bb = [false, false, true, false] ∧ t.bbLen = 4 ∧ (t.hostRead 0x04000#17 .word).resp = .data 0x20#32

/-- Bit 7−k of byte i of the buffer is stream bit 8i+k, 0 past the end, and the BB window of an idle core shows that
byte (R50, R82, R87). -/
def Obligations.BufferByteView : Prop :=
  (∀ (bits : List Bool) (i k : Nat), k < 8 → (bbByte bits i).getLsbD (7 - k) = bits.getD (8 * i + k) false) ∧
  (∀ (bits : List Bool) (i : Nat), (bits.length + 7) / 8 ≤ i → bbByte bits i = 0#8) ∧
  ∀ (s : State) (i : Nat), s.seq = .idle → i < 2956 →
    s.hostRead (offset (0x04000 + 4 * i)) .word = { s with resp := .data ((bbByte s.bb i).setWidth 32) }

/-- Writing a segment appends exactly segbits(s, v) bits: the mode indicator, the count in its field, and the payload
values, each most significant bit first, with the table's indicators and widths (R181, R182, R210, R216, R217, R219,
R226). -/
def Obligations.SegmentBitsHaveTheCountedLength : Prop :=
  ∀ (g : Segment) (v : Nat),
    (g.bits v).length = g.bitLength v ∧
    g.bits v =
      fieldBits (match g.mode with | .numeric => 1 | .alphanumeric => 2 | .byte => 4 | .kanji => 8) 4 ++
      fieldBits g.count (lenw g.mode v) ++ g.items.flatMap (fun p => fieldBits p.1 p.2) ∧
    g.count =
      (match g.mode with
        | .byte => 3 + (g.chars.map (fun c => (utf8 c).length)).sum
        | _ => g.chars.length) ∧
    lenw g.mode v =
      (match g.mode with
        | .numeric => if v ≤ 9 then 10 else if v ≤ 26 then 12 else 14
        | .alphanumeric => if v ≤ 9 then 9 else if v ≤ 26 then 11 else 13
        | .byte => if v ≤ 9 then 8 else 16
        | .kanji => if v ≤ 9 then 8 else if v ≤ 26 then 10 else 12) ∧
    g.bitLength v = 4 + lenw g.mode v +
      (match g.mode with
        | .numeric => 10 * (g.chars.length / 3) + [0, 4, 7].getD (g.chars.length % 3) 0
        | .alphanumeric => 11 * (g.chars.length / 2) + 6 * (g.chars.length % 2)
        | .byte => 8 * (3 + (g.chars.map (fun c => (utf8 c).length)).sum)
        | .kanji => 13 * g.chars.length)

/-- Every payload value of a segment of valid characters fits its width (R220), and the values are those of the mode's
encoder: the number each group of three digits spells (R221), the codes of each pair of characters (R222), the BOM and
the UTF-8 bytes (R223), the remapped Kanji codes (R224); and a character is the number its UTF-8 bytes hold (R225). -/
def Obligations.PayloadValuesFitTheirWidths : Prop :=
  (∀ g : Segment, g.Valid →
    (∀ p ∈ g.items, p.1 < 2 ^ p.2) ∧
    (g.mode = .numeric → g.items.length = (g.chars.length + 2) / 3 ∧ ∀ k group, 3 * k < g.chars.length →
      group = (g.chars.drop (3 * k)).take 3 →
      g.items[k]? =
        some (group.foldl (fun n c => 10 * n + (c - 0x30)) 0, [0, 4, 7, 10].getD group.length 0)) ∧
    (g.mode = .alphanumeric → g.items.length = (g.chars.length + 1) / 2 ∧ ∀ k,
      (2 * k + 1 < g.chars.length → g.items[k]? =
        some (alnumCode (g.chars.getD (2 * k) 0) * 45 + alnumCode (g.chars.getD (2 * k + 1) 0), 11)) ∧
      (2 * k + 1 = g.chars.length → g.items[k]? = some (alnumCode (g.chars.getD (2 * k) 0), 6))) ∧
    (g.mode = .byte →
      g.items = [(0xEF, 8), (0xBB, 8), (0xBF, 8)] ++ g.chars.flatMap (fun c => (utf8 c).map (fun b => (b, 8)))) ∧
    (g.mode = .kanji → g.items =
      g.chars.map (fun k => ((k - kanjiOffset k) / 256 * 0xC0 + (k - kanjiOffset k) % 256, 13)))) ∧
  (∀ c, c ≤ 0x7F → utf8 c = [c]) ∧
  ∀ c, 0x7F < c → c ≤ 0x7FFFFFFF → ∃ lead tail,
    utf8 c = lead :: tail ∧ tail.length = utf8Tails c ∧ (∀ b ∈ tail, 0x80 ≤ b ∧ b ≤ 0xBF) ∧
    256 - 2 ^ (7 - tail.length) ≤ lead ∧ lead < 256 - 2 ^ (6 - tail.length) ∧
    c = tail.foldl (fun n b => 64 * n + (b - 0x80)) (lead - (256 - 2 ^ (7 - tail.length)))

/-- SEG_WRITE on a well-formed descriptor with valid text, a count that fits its field and room in the buffer: the
header and payload are appended, RES0 is the number of bits, RES1 the count (R226, R228). -/
def Obligations.SegWriteCommand : Prop :=
  ∀ (s : State) (mode : Mode) (g : Segment),
    s.arg0.toNat < 64 → 1 ≤ s.arg1.toNat → s.arg1.toNat ≤ 40 →
    s.segMode s.arg0.toNat = Mode.indicator mode →
    s.segStart s.arg0.toNat + s.segLen s.arg0.toNat ≤ 8192 →
    g = ⟨mode, s.segChars s.arg0.toNat⟩ → g.Valid →
    g.count < 2 ^ lenw mode s.arg1.toNat → s.bb.length + g.bitLength s.arg1.toNat ≤ 23648 →
    exec .segWrite s = .next { s with
      bb := s.bb ++ g.bits s.arg1.toNat
      res0 := BitVec.ofNat 32 (g.bitLength s.arg1.toNat)
      res1 := BitVec.ofNat 32 g.count
      seq := .idle, done := true, err := .none }

/-- SEG_WRITE's errors in order; only InvalidCharacter writes RES0 and RES1, and none changes the buffer (R228). -/
def Obligations.SegWriteRaisesInOrder : Prop :=
  ∀ s : State,
    ((64 ≤ s.arg0.toNat ∨ s.arg1.toNat < 1 ∨ 40 < s.arg1.toNat ∨
        (∀ mode, s.segMode s.arg0.toNat ≠ Mode.indicator mode) ∨
        8192 < s.segStart s.arg0.toNat + s.segLen s.arg0.toNat) →
      exec .segWrite s = .next { s with seq := .idle, done := true, err := .badArgument }) ∧
    ∀ (mode : Mode) (g : Segment),
      s.arg0.toNat < 64 → 1 ≤ s.arg1.toNat → s.arg1.toNat ≤ 40 →
      s.segMode s.arg0.toNat = Mode.indicator mode →
      s.segStart s.arg0.toNat + s.segLen s.arg0.toNat ≤ 8192 →
      g = ⟨mode, s.segChars s.arg0.toNat⟩ →
      (∀ j c, g.chars[j]? = some c → validChar mode c = false →
        (∀ i x, i < j → g.chars[i]? = some x → validChar mode x = true) →
        exec .segWrite s = .next { s with
          res0 := s.arg0, res1 := BitVec.ofNat 32 j, seq := .idle, done := true, err := .invalidCharacter }) ∧
      (g.Valid → 2 ^ lenw mode s.arg1.toNat ≤ g.count →
        exec .segWrite s = .next { s with seq := .idle, done := true, err := .codeTooLarge }) ∧
      (g.Valid → g.count < 2 ^ lenw mode s.arg1.toNat → 23648 < s.bb.length + g.bitLength s.arg1.toNat →
        exec .segWrite s = .next { s with seq := .idle, done := true, err := .resourceLimit })

/-! ## Matrix -/

/-- BUILD: the grid of CW[0..CW_LEN) with the given mask, test flag and version, MASKED, with its registers; its errors
in order with only STATUS changed (R280). -/
def Obligations.BuildCommand : Prop :=
  ∀ s : State,
    ((s.arg2.toNat < 1 ∨ 40 < s.arg2.toNat ∨ 1 < s.arg1.toNat ∨ 3706 < s.cwLen.toNat) →
      exec .build s = .next { s with seq := .idle, done := true, err := .badArgument }) ∧
    (1 ≤ s.arg2.toNat → s.arg2.toNat ≤ 40 → s.arg1.toNat ≤ 1 → s.cwLen.toNat ≤ 3706 →
      (7 < s.arg0.toNat →
        exec .build s = .next { s with seq := .idle, done := true, err := .invalidMaskPattern }) ∧
      (s.arg0.toNat ≤ 7 →
        exec .build s = .next { s with
          grid := buildGrid s.arg2.toNat s.cfgEcl s.codewords s.arg0.toNat (decide (s.arg1.toNat = 1))
          gridState := .masked
          symVersion := BitVec.ofNat 6 s.arg2.toNat
          symMask := BitVec.ofNat 3 s.arg0.toNat
          symEcl := s.cfgEcl
          moduleCount := BitVec.ofNat 8 (4 * s.arg2.toNat + 17)
          seq := .idle, done := true, err := .none }))

/-- Data placement writes only cells the patterns left UNSET; which cells those are does not depend on level, mask or
test flag; and in such a cell two masks give different colours exactly where their predicates differ (R291, R298). The
cells are visited in column pairs from the right, column 6 skipped, up and down in turn, the right cell first; the cell
after `k` free ones gets stream bit `k` (0 past the end) XOR the mask; and stream bit 8i + b is bit 7 − b of codeword i
(R291, R292). -/
def Obligations.FunctionCellsSurviveDataPlacement : Prop :=
  (∀ (v : Nat) (eb eb' : BitVec 2) (cws : List Byte) (m m' : Nat) (test test' : Bool) (r c : Nat),
    1 ≤ v → v ≤ 40 → r < 4 * v + 17 → c < 4 * v + 17 →
    ((structuralGrid v eb m test).cell r c ≠ .unset →
      (buildGrid v eb cws m test).cell r c = (structuralGrid v eb m test).cell r c) ∧
    ((structuralGrid v eb m test).cell r c = .unset ↔ (structuralGrid v eb' m' test').cell r c = .unset) ∧
    ((structuralGrid v eb m test).cell r c = .unset →
      ((buildGrid v eb cws m test).cell r c = (buildGrid v eb cws m' test).cell r c ↔
        maskBit m r c = maskBit m' r c))) ∧
  (∀ v n : Nat, 1 ≤ v → v ≤ 40 → n = 4 * v + 17 →
    (placementOrder n).length = n * (n - 1) ∧
    ∀ k j h, k < (n - 1) / 2 → j < n → h < 2 → (placementOrder n)[2 * (n * k + j) + h]? =
      some (if k % 2 = 0 then n - 1 - j else j, (if 2 * k + 7 < n then n - 1 - 2 * k else n - 2 - 2 * k) - h)) ∧
  (∀ (v : Nat) (eb : BitVec 2) (cws : List Byte) (m : Nat) (test : Bool) (p r c : Nat), 1 ≤ v → v ≤ 40 →
    (placementOrder (4 * v + 17))[p]? = some (r, c) → (structuralGrid v eb m test).cell r c = .unset →
    (buildGrid v eb cws m test).cell r c =
      shade ((codewordBits cws).getD
        (((placementOrder (4 * v + 17)).take p).filter (fun q =>
          (structuralGrid v eb m test).cell q.1 q.2 == .unset)).length false ^^ maskBit m r c)) ∧
  ∀ (cws : List Byte) (i b : Nat), b < 8 →
    (codewordBits cws).getD (8 * i + b) false = (cws.getD i 0#8).getLsbD (7 - b)

/-- Both format copies hold the format word, the dark module is DARK, and from version 7 on both version blocks hold
the version word; in test mode all of them are LIGHT (R286–R290). -/
def Obligations.FormatAndVersionCells : Prop :=
  ∀ (v : Nat) (eb : BitVec 2) (cws : List Byte) (m : Nat) (test : Bool), 1 ≤ v → v ≤ 40 →
    (∀ i, i < 15 →
      (buildGrid v eb cws m test).cell (formatPlaceA (4 * v + 17) i).1 (formatPlaceA (4 * v + 17) i).2 =
        shade (!test && (fmtword ((eb.toNat <<< 3) ||| m)).testBit i) ∧
      (buildGrid v eb cws m test).cell (formatPlaceB (4 * v + 17) i).1 (formatPlaceB (4 * v + 17) i).2 =
        shade (!test && (fmtword ((eb.toNat <<< 3) ||| m)).testBit i)) ∧
    (buildGrid v eb cws m test).cell (4 * v + 17 - 8) 8 = shade (!test) ∧
    (7 ≤ v → ∀ i, i < 18 →
      (buildGrid v eb cws m test).cell (i / 3) (4 * v + 17 - 11 + i % 3) =
        shade (!test && (verword v).testBit i) ∧
      (buildGrid v eb cws m test).cell (4 * v + 17 - 11 + i % 3) (i / 3) =
        shade (!test && (verword v).testBit i))

/-- A built grid of any version, level, codewords, mask and test flag is n × n with no UNSET cell (R298 (a)). -/
def Obligations.BuiltGridIsResolved : Prop :=
  ∀ (v : Nat) (eb : BitVec 2) (cws : List Byte) (m : Nat) (test : Bool), 1 ≤ v → v ≤ 40 →
    (buildGrid v eb cws m test).length = 4 * v + 17 ∧
    ∀ r, r < 4 * v + 17 → ((buildGrid v eb cws m test).getD r []).length = 4 * v + 17 ∧
      ∀ c, c < 4 * v + 17 → (buildGrid v eb cws m test).cell r c ≠ .unset

/-- The three finder patterns with their separators are the shape of R282 at all three corners, in every grid (R283,
R298 (c)); between them row 6 and column 6 alternate from DARK at 8 on (R285); every alignment centre but the three at
the finders has the 5 × 5 pattern (R284); and the cells the patterns set are exactly the function cells (R298 (b)). -/
def Obligations.FindersAreIdenticalInEveryGrid : Prop :=
  ∀ (v : Nat) (eb : BitVec 2) (cws : List Byte) (m : Nat) (test : Bool) (g : Grid),
    1 ≤ v → v ≤ 40 → g = buildGrid v eb cws m test →
    (∀ r c, r ≤ 7 → c ≤ 7 →
      g.cell r c = shade (finderShape r c) ∧
      g.cell r (4 * v + 17 - 1 - c) = shade (finderShape r c) ∧
      g.cell (4 * v + 17 - 1 - r) c = shade (finderShape r c)) ∧
    (∀ k, 8 ≤ k → k ≤ 4 * v + 8 → g.cell k 6 = shade (k % 2 == 0) ∧ g.cell 6 k = shade (k % 2 == 0)) ∧
    (v = 1 → alignpos v = []) ∧
    (2 ≤ v → (alignpos v).head? = some 6 ∧ (alignpos v).getLast? = some (4 * v + 10)) ∧
    (∀ a ∈ alignpos v, ∀ b ∈ alignpos v, (a, b) ∉ skippedCentres v → ∀ dr dc, dr < 5 → dc < 5 →
      g.cell (a + dr - 2) (b + dc - 2) = shade (alignmentShape dr dc)) ∧
    (∀ r c, r < 4 * v + 17 → c < 4 * v + 17 →
      ((structuralGrid v eb m test).cell r c ≠ .unset ↔ FunctionCell v r c))

/-- R296 and R297: BCH_FMT and BCH_VER write the word of their data to RES0, BadArgument above 31 and 63, and the rules'
examples; and each word holds its data above a remainder that makes it a multiple of the generator. -/
def Obligations.BchCommands : Prop :=
  encode .bchFmt = 0x00000031#32 ∧ encode .bchVer = 0x00000032#32 ∧
  (∀ s : State,
    (s.arg0.toNat ≤ 31 → exec .bchFmt s = .next { s with
      res0 := BitVec.ofNat 32 (fmtword s.arg0.toNat), seq := .idle, done := true, err := .none }) ∧
    (31 < s.arg0.toNat → exec .bchFmt s = .next { s with seq := .idle, done := true, err := .badArgument }) ∧
    (s.arg0.toNat ≤ 63 → exec .bchVer s = .next { s with
      res0 := BitVec.ofNat 32 (verword s.arg0.toNat), seq := .idle, done := true, err := .none }) ∧
    (63 < s.arg0.toNat → exec .bchVer s = .next { s with seq := .idle, done := true, err := .badArgument })) ∧
  (∀ d, d ≤ 31 → fmtword d < 2 ^ 15 ∧ (fmtword d ^^^ 0x5412) >>> 10 = d ∧ bchrem (fmtword d ^^^ 0x5412) 0x537 = 0) ∧
  (∀ v, v ≤ 63 → verword v < 2 ^ 18 ∧ verword v >>> 12 = v ∧ bchrem (verword v) 0x1F25 = 0) ∧
  fmtword 0 = 0x5412 ∧ fmtword 8 = 0x77C4 ∧ verword 0 = 0 ∧ verword 7 = 0x7C94

/-- R294: MASK_BIT evaluates the predicate of R293 for m = ARG0, i = ARG1, j = ARG2; BadArgument for an index above 255,
then InvalidMaskPattern, with only STATUS changed; the rule's corner case and worked example. -/
def Obligations.MaskBitCommand : Prop :=
  encode .maskBit = 0x00000033#32 ∧
  (∀ (s : State) (m i j : Nat), m = s.arg0.toNat → i = s.arg1.toNat → j = s.arg2.toNat →
    ((255 < i ∨ 255 < j) → exec .maskBit s = .next { s with seq := .idle, done := true, err := .badArgument }) ∧
    (i ≤ 255 → j ≤ 255 → 7 < m →
      exec .maskBit s = .next { s with seq := .idle, done := true, err := .invalidMaskPattern }) ∧
    (i ≤ 255 → j ≤ 255 → m ≤ 7 →
      exec .maskBit s = .next { s with
        res0 :=
          if (m = 0 ∧ (i + j) % 2 = 0) ∨ (m = 1 ∧ i % 2 = 0) ∨ (m = 2 ∧ j % 3 = 0) ∨ (m = 3 ∧ (i + j) % 3 = 0) ∨
            (m = 4 ∧ (i / 2 + j / 3) % 2 = 0) ∨ (m = 5 ∧ (i * j) % 2 + (i * j) % 3 = 0) ∨
            (m = 6 ∧ ((i * j) % 2 + (i * j) % 3) % 2 = 0) ∨ (m = 7 ∧ ((i * j) % 3 + (i + j) % 2) % 2 = 0)
          then 1#32 else 0#32
        seq := .idle, done := true, err := .none })) ∧
  (∀ m, m ≤ 7 → maskBit m 0 0 = true) ∧ maskBit 4 2 3 = true

/-! ## Penalty and mask choice -/

/-- PENALTY on a held grid: RES0 the penalty and RES1 the dark count of the n × n grid, BadArgument when no grid is
held; on a fully resolved grid the dark count is the number of DARK cells and the penalty is below 2^22 (R330, R335). -/
def Obligations.PenaltyCommand : Prop :=
  ∀ s : State,
    (s.gridState = .empty →
      exec .penalty s = .next { s with seq := .idle, done := true, err := .badArgument }) ∧
    (s.gridState ≠ .empty →
      exec .penalty s = .next { s with
        res0 := BitVec.ofNat 32 (penalty s.moduleCount.toNat s.gridView)
        res1 := BitVec.ofNat 32 (darkCount s.gridView.colours)
        seq := .idle, done := true, err := .none } ∧
      (s.GridResolved → s.moduleCount.toNat ≤ 177 →
        s.gridView = s.grid ∧
        darkCount s.gridView.colours =
          ((List.range s.moduleCount.toNat).map (fun r =>
            ((List.range s.moduleCount.toNat).filter (fun c => s.grid.cell r c == .dark)).length)).sum ∧
        penalty s.moduleCount.toNat s.gridView < 2 ^ 22))

/-- Rule 1 scores the maximal runs of a line, rule 2 the uniform 2 × 2 blocks of adjacent rows, rule 3 the places where
the seven-cell pattern stands, and the columns of a grid are its lines read downwards (R330–R333). The penalty of an
n × n grid is the sum of rules 1 and 3 over its n rows and n columns, rule 2 over its pairs of adjacent rows, and rule 4
of its number of DARK cells (R330). -/
def Obligations.PenaltyRulesCountRunsBlocksAndFinders : Prop :=
  (∀ l : List Bool, lineRuns l =
    ((l.splitBy (· == ·)).map (fun run => if 5 ≤ run.length then 3 + (run.length - 5) else 0)).sum) ∧
  (∀ l : List Bool, lineFinders l =
    40 * ((List.range (l.length - 6)).filter (fun k =>
      (l.drop k).take 7 == [true, false, true, true, true, false, true])).length) ∧
  (∀ a b : List Bool, a.length = b.length → blockScore a b =
    3 * ((List.range (a.length - 1)).filter (fun c =>
      a.getD c false == a.getD (c + 1) false && a.getD c false == b.getD c false &&
        a.getD c false == b.getD (c + 1) false)).length) ∧
  (∀ rows : List (List Bool), penalty2 rows =
    ((List.range (rows.length - 1)).map (fun r => blockScore (rows.getD r []) (rows.getD (r + 1) []))).sum) ∧
  (∀ (n : Nat) (rows : List (List Bool)) (r c : Nat), c < n → r < rows.length →
    ((columnLines n rows).getD c []).getD r false = (rows.getD r []).getD c false) ∧
  ∀ (n : Nat) (g : Grid), g.length = n → (∀ row ∈ g, row.length = n) →
    penalty n g =
      ((List.range n).map (fun r => lineRuns (rowLine n g r) + lineFinders (rowLine n g r))).sum +
      ((List.range n).map (fun c => lineRuns (colLine n g c) + lineFinders (colLine n g c))).sum +
      ((List.range (n - 1)).map (fun r => blockScore (rowLine n g r) (rowLine n g (r + 1)))).sum +
      penalty4 n ((List.range n).map (fun r => (rowLine n g r).count true)).sum

/-- R334: rule 4 is the exact rational floor of |percentage_dark − 50| / 5, times 10, with the rule's examples and
bound. -/
def Obligations.DarkBalanceIsExact : Prop :=
  (∀ n d : Nat, 0 < n →
    (penalty4 n d : Int) = 10 * ⌊|100 * (d : ℚ) / ((n : ℚ) * (n : ℚ)) - 50| / 5⌋ ∧
    (penalty4 n d : Int) = 10 * ⌊|20 * (d : ℚ) - 10 * ((n : ℚ) * (n : ℚ))| / ((n : ℚ) * (n : ℚ))⌋) ∧
  (∀ n d : Nat, 0 < n → d ≤ n * n → penalty4 n d ≤ 100) ∧
  (∀ n : Nat, 0 < n → penalty4 n 0 = 100 ∧ penalty4 n (n * n) = 100) ∧
  penalty4 21 199 = 0 ∧ penalty4 21 176 = 20

/-- R336: the mask chosen is the least id of 0..7 whose test-mode grid has the least penalty. -/
def Obligations.MaskChoiceIsTheFirstMinimum : Prop :=
  ∀ (v : Nat) (eb : BitVec 2) (cws : List Byte) (m : Nat),
    selectMask v eb cws = m ↔
      m ≤ 7 ∧
      (∀ k, k ≤ 7 →
        penalty (4 * v + 17) (buildGrid v eb cws m true) ≤ penalty (4 * v + 17) (buildGrid v eb cws k true)) ∧
      (∀ k, k < m →
        penalty (4 * v + 17) (buildGrid v eb cws m true) < penalty (4 * v + 17) (buildGrid v eb cws k true))

/-! ## ENCODE -/

/-- The version is CFG_VERSION, or for 0 the smallest that fits, CodeTooLarge when none does; and fitting is not
monotonic, as the rule's example of 51 empty Byte segments shows (R250). -/
def Obligations.SelectedVersionIsTheSmallestFit : Prop :=
  (∀ (cfg : Nat) (segs : List Segment) (ecl : Level),
    (∀ v, selectVersion cfg segs ecl = .ok v ↔ VersionChosen cfg segs ecl v) ∧
    (∀ e, selectVersion cfg segs ecl = .error e ↔
      e = .codeTooLarge ∧ cfg = 0 ∧ ∀ v, 1 ≤ v → v ≤ 40 → capbits v ecl < totalBits segs v)) ∧
  totalBits (List.replicate 51 ⟨.byte, []⟩) 9 = 1836 ∧ capbits 9 .l = 1856 ∧
  totalBits (List.replicate 51 ⟨.byte, []⟩) 10 = 2244 ∧ capbits 10 .l = 2192 ∧
  totalBits (List.replicate 51 ⟨.byte, []⟩) 11 ≤ capbits 11 .l ∧ capbits 11 .l = 2592

/-- Once the segments fit, assembling raises no error, fills the data capacity with the segments, the terminator of four
zero bits when it fits, zero bits to the byte boundary and the bytes 0xEC, 0x11 in turn, and gives the version's total of
codewords, within the core's memories: the columns of the data blocks, which are the consecutive bytes of the buffer the
block table gives, followed by the columns of each block's check codewords (R252–R259). -/
def Obligations.AssemblerFillsTheCapacity : Prop :=
  ∀ (segs : List Segment) (v : Nat) (ecl : Level), 1 ≤ v → v ≤ 40 → totalBits segs v ≤ capbits v ecl →
    ∃ (a : Assembled) (data ecc : List (List Byte)), assemble segs v ecl = .ok a ∧
      a.bits.length = capbits v ecl ∧ capbits v ecl ≤ 23648 ∧
      a.codewords.length = totalcw v ecl ∧ totalcw v ecl = totalcw v .l ∧ totalcw v ecl ≤ 3706 ∧
      (∀ z k, z = paddingZeros (totalBits segs v) (capbits v ecl) → k = (totalBits segs v + z) / 8 →
        z ≤ 11 ∧ totalBits segs v + z = 8 * k ∧ 8 * k ≤ capbits v ecl ∧
        a.bits.take (8 * k) = segs.flatMap (fun g => g.bits v) ++ List.replicate z false ∧
        ∀ i, k ≤ i → i < capbits v ecl / 8 → bbByte a.bits i = if (i - k) % 2 = 0 then 0xEC#8 else 0x11#8) ∧
      a.codewords = columns data ++ columns ecc ∧
      data.length = (rsblocks v ecl).length ∧ ecc.length = (rsblocks v ecl).length ∧
      8 * ((rsblocks v ecl).map Prod.snd).sum = capbits v ecl ∧
      (∀ b t d, (rsblocks v ecl)[b]? = some (t, d) → ∃ ec,
        data[b]? = some (blockData a.bits (rsblocks v ecl) b d) ∧ ecc[b]? = some ec ∧
        rsEcc (blockData a.bits (rsblocks v ecl) b d) (t - d) = .ok ec ∧ ec.length = t - d)

/-- Column-major interleaving: codeword i of block b stands after the first i codewords of every block and codeword i of
the blocks before b that have one; and interleaving puts the columns of the data blocks first and those of the check
blocks after them (R258). -/
def Obligations.InterleavePlacesEveryCodeword : Prop :=
  (∀ blocks : List (List Byte), (columns blocks).length = (blocks.map List.length).sum ∧
    ∀ (b i : Nat) (block : List Byte) (x : Byte), blocks[b]? = some block → block[i]? = some x →
      (columns blocks)[columnPlace blocks b i]? = some x) ∧
  ∀ pairs : List (List Byte × List Byte),
    (interleave pairs).length = (pairs.map (fun p => p.1.length)).sum + (pairs.map (fun p => p.2.length)).sum ∧
    ∀ (b i : Nat) (data ecc : List Byte) (x : Byte), pairs[b]? = some (data, ecc) →
      (data[i]? = some x → (interleave pairs)[columnPlace (pairs.map Prod.fst) b i]? = some x) ∧
      (ecc[i]? = some x → (interleave pairs)[(pairs.map (fun p => p.1.length)).sum +
        columnPlace (pairs.map Prod.snd) b i]? = some x)

/-- ENCODE on legal arguments, well-formed descriptors, valid text and a version that fits: the assembled bits, the
codewords in CW, the grid built in non-test mode with the chosen mask, COMMITTED, with every register R352 names. -/
def Obligations.EncodeCommits : Prop :=
  ∀ (s : State) (segs : List Segment) (ecl : Level) (v : Nat),
    s.MemoryCanonical → s.segCount.toNat ≤ 64 → s.cfgVersion.toNat ≤ 40 → s.HasSegments segs →
    (∀ g ∈ segs, g.Valid) → Level.bits ecl = s.cfgEcl → VersionChosen s.cfgVersion.toNat segs ecl v →
    totalBits segs v ≤ capbits v ecl →
    ∃ (a : Assembled) (m : Memory),
      assemble segs v ecl = .ok a ∧ a.bits.length = capbits v ecl ∧ a.codewords.length = totalcw v ecl ∧
      exec .encode s = .next { s with
        bb := a.bits
        mem := m
        cwLen := BitVec.ofNat 12 (totalcw v ecl)
        grid := buildGrid v s.cfgEcl a.codewords (selectMask v s.cfgEcl a.codewords) false
        gridState := .committed
        symVersion := BitVec.ofNat 6 v
        symMask := BitVec.ofNat 3 (selectMask v s.cfgEcl a.codewords)
        symEcl := s.cfgEcl
        moduleCount := BitVec.ofNat 8 (4 * v + 17)
        res0 := BitVec.ofNat 32 v
        res1 := BitVec.ofNat 32 (selectMask v s.cfgEcl a.codewords)
        seq := .idle, done := true, err := .none } ∧
      (∀ i, i < totalcw v ecl → m.read (cwAddr i) = a.codewords.getD i 0#8) ∧
      (∀ x, (∀ i, i < totalcw v ecl → x ≠ cwAddr i) → m.read x = s.mem.read x)

/-- ENCODE's errors in order: each discards the grid and its registers and writes the error information R352 gives;
nothing else changes. -/
def Obligations.EncodeErrorsDiscardTheGrid : Prop :=
  ∀ (s dropped : State),
    dropped = { s with
      grid := [], gridState := .empty, moduleCount := 0#8, symVersion := 0#6, symMask := 0#3, symEcl := 0#2
      seq := .idle, done := true } →
    ((64 < s.segCount.toNat ∨ 40 < s.cfgVersion.toNat) →
      exec .encode s = .next { dropped with err := .badArgument, res0 := 0xFFFFFFFF#32 }) ∧
    (s.segCount.toNat ≤ 64 → s.cfgVersion.toNat ≤ 40 →
      (∀ k, k < s.segCount.toNat →
        ((∀ mode, s.segMode k ≠ Mode.indicator mode) ∨ 8192 < s.segStart k + s.segLen k) →
        (∀ j, j < k → (∃ mode, s.segMode j = Mode.indicator mode) ∧ s.segStart j + s.segLen j ≤ 8192) →
        exec .encode s = .next { dropped with err := .badArgument, res0 := BitVec.ofNat 32 k }) ∧
      ∀ segs, s.HasSegments segs →
        (∀ k g j c, segs[k]? = some g → g.chars[j]? = some c → validChar g.mode c = false →
          (∀ i x, i < j → g.chars[i]? = some x → validChar g.mode x = true) →
          (∀ i h, i < k → segs[i]? = some h → h.Valid) →
          exec .encode s = .next { dropped with
            err := .invalidCharacter, res0 := BitVec.ofNat 32 k, res1 := BitVec.ofNat 32 j }) ∧
        ∀ ecl, (∀ g ∈ segs, g.Valid) → Level.bits ecl = s.cfgEcl →
          ((s.cfgVersion.toNat = 0 ∧ ∀ v, 1 ≤ v → v ≤ 40 → capbits v ecl < totalBits segs v) ∨
            (s.cfgVersion.toNat ≠ 0 ∧ capbits s.cfgVersion.toNat ecl < totalBits segs s.cfgVersion.toNat)) →
          exec .encode s = .next { dropped with err := .codeTooLarge })

/-! ## Control -/

/-- R353: RES0 is 1 for a DARK module and 0 otherwise when a grid is held and row and column, read signed, lie in it;
else OutOfRange with only STATUS changed. -/
def Obligations.IsDarkCommand : Prop :=
  encode .isDark = 0x00000051#32 ∧
  ∀ s : State,
    (s.gridState ≠ .empty → 0 ≤ s.arg0.toInt → s.arg0.toInt < s.moduleCount.toNat → 0 ≤ s.arg1.toInt →
      s.arg1.toInt < s.moduleCount.toNat →
      exec .isDark s = .next { s with
        res0 := if s.grid.cell s.arg0.toInt.toNat s.arg1.toInt.toNat = .dark then 1#32 else 0#32
        seq := .idle, done := true, err := .none }) ∧
    ((s.gridState = .empty ∨ s.arg0.toInt < 0 ∨ (s.moduleCount.toNat : Int) ≤ s.arg0.toInt ∨ s.arg1.toInt < 0 ∨
        (s.moduleCount.toNat : Int) ≤ s.arg1.toInt) →
      exec .isDark s = .next { s with seq := .idle, done := true, err := .outOfRange }) ∧
    (s.arg0 = 0xFFFFFFFF#32 →
      exec .isDark s = .next { s with seq := .idle, done := true, err := .outOfRange })

/-- R350: the only legal word of NOP is 0; only the command cycle runs, DONE = 1 with ERR = 0, no interrupt unless IE;
STATUS is 0x2 when no grid is committed (and no write was dropped). -/
def Obligations.NopCommand : Prop :=
  encode .nop = 0x00000000#32 ∧ (∀ w, decode w = .ok .nop ↔ w = 0#32) ∧
  ∀ s : State, ∃ t, exec .nop s = .next t ∧ t = { s with seq := .idle, done := true, err := .none } ∧
    t.irq = s.ie ∧ (s.gridState ≠ .committed → s.overrun = false → t.statusWord = 0x00000002#32)

/-! ## Errors, frames and invariants over all commands -/

/-- A command ends only with the codes of its row of R392's table, or with none. -/
def Obligations.CommandsRaiseOnlyTheirErrors : Prop :=
  ∀ (i : Instr) (s t : State), exec i s = .next t →
    t.err ∈
      (match i with
        | .nop | .sreset | .gfExp | .bbClear => [ErrCode.none]
        | .gfLog => [ErrCode.none, ErrCode.gfLogZero, ErrCode.badArgument]
        | .polyMul _ _ _ | .rsEcc _ _ =>
          [ErrCode.none, ErrCode.badArgument, ErrCode.resourceLimit, ErrCode.gfLogZero]
        | .polyMod _ _ _ => [ErrCode.none, ErrCode.badArgument, ErrCode.gfLogZero]
        | .polyGen _ => [ErrCode.none, ErrCode.resourceLimit]
        | .bbPut => [ErrCode.none, ErrCode.badArgument, ErrCode.resourceLimit]
        | .segWrite => [ErrCode.none, ErrCode.badArgument, ErrCode.invalidCharacter, ErrCode.codeTooLarge,
          ErrCode.resourceLimit]
        | .build | .maskBit => [ErrCode.none, ErrCode.badArgument, ErrCode.invalidMaskPattern]
        | .bchFmt | .bchVer | .penalty => [ErrCode.none, ErrCode.badArgument]
        | .encode => [ErrCode.none, ErrCode.badArgument, ErrCode.invalidCharacter, ErrCode.codeTooLarge]
        | .isDark => [ErrCode.none, ErrCode.outOfRange])

/-- A failing command changes only STATUS; SEG_WRITE with InvalidCharacter also RES0 and RES1; ENCODE also the
discarded grid, and RES0 or RES1 as R383 and R388 say (R390). -/
def Obligations.FailingCommandsChangeOnlyWhatTheirErrorNames : Prop :=
  ∀ (i : Instr) (s t : State), exec i s = .next t → t.err ≠ .none →
    (i ≠ .encode → t.err ≠ .invalidCharacter →
      t = { s with seq := .idle, done := true, err := t.err }) ∧
    (i ≠ .encode → t.err = .invalidCharacter →
      i = .segWrite ∧
      t = { s with res0 := t.res0, res1 := t.res1, seq := .idle, done := true, err := .invalidCharacter }) ∧
    (i = .encode →
      t = { s with
        grid := [], gridState := .empty, moduleCount := 0#8, symVersion := 0#6, symMask := 0#3, symEcl := 0#2
        res0 := t.res0, res1 := t.res1, seq := .idle, done := true, err := t.err } ∧
      (t.err = .badArgument → t.res1 = s.res1) ∧
      (t.err = .codeTooLarge → t.res0 = s.res0 ∧ t.res1 = s.res1))

/-- What no command but those named writes: the operand, configuration and enable registers, OVERRUN, the grid, the bit
buffer, CW_LEN, RES0, RES1, the PLEN and coefficients of a register that is not the destination, the codewords, and
every offset outside PR and CW (R36, R37, R45, R57, R213, R352). A command other than SRESET, BB_CLEAR and ENCODE, which
clears the buffer before it fills it (R253, R260, log 20), only appends to the bit buffer (R45, R210). The reset input
and the model's own fields are the host's (R420, logs 4 to 7). -/
def Obligations.CommandsKeepWhatTheyDoNotWrite : Prop :=
  ∀ (i : Instr) (s t : State), s.MemoryCanonical → exec i s = .next t →
    (t.rst = s.rst ∧ t.bus = s.bus ∧ t.resp = s.resp ∧ t.latency = s.latency ∧ t.draws = s.draws) ∧
    (i ≠ .sreset →
      t.ie = s.ie ∧ t.overrun = s.overrun ∧ t.arg0 = s.arg0 ∧ t.arg1 = s.arg1 ∧ t.arg2 = s.arg2 ∧
      t.cfgEcl = s.cfgEcl ∧ t.cfgVersion = s.cfgVersion ∧ t.segCount = s.segCount) ∧
    (i ∉ [.sreset, .build, .encode] →
      t.grid = s.grid ∧ t.gridState = s.gridState ∧ t.moduleCount = s.moduleCount ∧ t.symVersion = s.symVersion ∧
      t.symMask = s.symMask ∧ t.symEcl = s.symEcl) ∧
    (i ∉ [.sreset, .bbClear, .bbPut, .segWrite, .encode] → t.bb = s.bb) ∧
    (i ∉ [.sreset, .bbClear, .encode] → ∃ b, t.bb = s.bb ++ b) ∧
    (i ∉ [.sreset, .encode] → t.cwLen = s.cwLen) ∧
    (i ∉ [.sreset, .gfExp, .gfLog, .segWrite, .bchFmt, .bchVer, .maskBit, .penalty, .encode, .isDark] →
      t.res0 = s.res0) ∧
    (i ∉ [.sreset, .segWrite, .penalty, .encode] → t.res1 = s.res1) ∧
    (∀ k, i ≠ .sreset → i.regs.head? ≠ some k → t.plen k = s.plen k) ∧
    (∀ k j, j < 256 → i.regs.head? ≠ some k → t.mem.read (prAddr k j) = s.mem.read (prAddr k j)) ∧
    (∀ j, j < 3706 → i ≠ .encode → t.mem.read (cwAddr j) = s.mem.read (cwAddr j)) ∧
    (∀ x, x < 0x01000 ∨ (0x02000 ≤ x ∧ x < 0x08000) ∨ 0x0B9E8 ≤ x → t.mem.read x = s.mem.read x)

/-- The invariants hold right after reset. -/
def Obligations.ResetMeetsTheInvariant : Prop :=
  State.reset.Inv ∧ State.reset.GridResolved

/-- Every step, of any command or any host action, keeps the canonical form of the windows, the bit buffer within
BB_CAP, the grid registers in agreement with GRID_STATE, DONE and ERR 0 while a command is in flight, and every register
at its reset value while the reset input is held (R41–R45, R86, R87, R381, R420). -/
def Obligations.StepKeepsTheInvariant : Prop :=
  ∀ s t : State, s.Inv → step s = .next t → t.Inv

/-- Every step keeps a held grid fully resolved: n × n with n = MODULECOUNT, every cell DARK or LIGHT (R49, R354). -/
def Obligations.StepKeepsTheGridResolved : Prop :=
  ∀ s t : State, s.GridResolved → step s = .next t → t.GridResolved
end

