-- ==== Sys2Proof/Laws/Bits.lean ====
section
/-! SUPPORT. Lengths and entries of the bit lists the segment encoders and the assembler append. -/

namespace Sys2Proof.Machine

@[simp] theorem length_bitsMsb (v w : Nat) : (bitsMsb v w).length = w := by
  induction w with
  | zero => rfl
  | succ w ih => simp [bitsMsb, ih]

/-- Entry k of `put(v, w)` is bit w − 1 − k of v. -/
theorem getElem_bitsMsb (v w k : Nat) (h : k < (bitsMsb v w).length) :
    (bitsMsb v w)[k] = v.testBit (w - 1 - k) := by
  induction w generalizing k with
  | zero => simp at h
  | succ w ih =>
    cases k with
    | zero => simp [bitsMsb]
    | succ k =>
      simp only [bitsMsb, List.getElem_cons_succ]
      rw [ih]
      congr 1
      omega

/-- `put(v, w)` appends the bits of the field as the statements write them. -/
theorem bitsMsb_eq_fieldBits (v w : Nat) : bitsMsb v w = fieldBits v w := by
  apply List.ext_getElem (by simp [fieldBits])
  intro k h _
  rw [getElem_bitsMsb]
  simp [fieldBits]

@[simp] theorem length_padBytes (k n : Nat) : (padBytes k n).length = 8 * n := by
  induction n generalizing k with
  | zero => rfl
  | succ n ih => simp [padBytes, ih]; omega

theorem length_addTerminator (cap : Nat) (bits : List Bool) :
    (addTerminator cap bits).length = if bits.length + 4 ≤ cap then bits.length + 4 else bits.length := by
  unfold addTerminator
  split <;> simp

theorem length_addBitPadding (bits : List Bool) :
    (addBitPadding bits).length = bits.length + (8 - bits.length % 8) % 8 := by
  simp [addBitPadding]

theorem length_addBytePadding (cap : Nat) (bits : List Bool) :
    (addBytePadding cap bits).length = bits.length + 8 * ((cap - bits.length + 7) / 8) := by
  simp [addBytePadding]

@[simp] theorem length_dataCodewords (bits : List Bool) (cap : Nat) : (dataCodewords bits cap).length = cap / 8 := by
  simp [dataCodewords]

end Sys2Proof.Machine
end

