-- ==== Sys2Proof/Laws/Grid.lean ====
section
/-! SUPPORT. Reading a grid after a write, the size a write keeps, and the lines the scorer reads. -/

namespace Sys2Proof.Machine

/-- n rows of n modules. -/
def Grid.Square (n : Nat) (g : Grid) : Prop := g.length = n ∧ ∀ row ∈ g, row.length = n

theorem Grid.square_blank (n : Nat) : Grid.Square n (Grid.blank n) := by
  refine ⟨by simp [Grid.blank], ?_⟩
  intro row h
  simp only [Grid.blank] at h
  rw [List.eq_of_mem_replicate h]
  simp

theorem Grid.square_put {n : Nat} {g : Grid} (h : Grid.Square n g) (r c : Nat) (x : GridCell) :
    Grid.Square n (g.put r c x) := by
  refine ⟨by simpa [Grid.put] using h.1, ?_⟩
  intro row hrow
  simp only [Grid.put] at hrow
  by_cases hr : r < g.length
  · rcases List.mem_or_eq_of_mem_set hrow with hmem | heq
    · exact h.2 _ hmem
    · subst heq
      rw [List.length_set]
      have : g.getD r [] ∈ g := by
        rw [List.getD_eq_getElem _ _ hr]
        exact List.getElem_mem hr
      exact h.2 _ this
  · rw [List.set_eq_of_length_le (by omega)] at hrow
    exact h.2 _ hrow

/-- The cell written reads as written, every other cell as before. -/
theorem Grid.cell_put {n : Nat} {g : Grid} (h : Grid.Square n g) {r c : Nat} (hr : r < n) (hc : c < n) (x : GridCell)
    (i j : Nat) : (g.put r c x).cell i j = if i = r ∧ j = c then x else g.cell i j := by
  have hlen : r < g.length := by rw [h.1]; exact hr
  have hrow : (g.getD r []).length = n := by
    rw [List.getD_eq_getElem _ _ hlen]
    exact h.2 _ (List.getElem_mem hlen)
  unfold Grid.put Grid.cell
  by_cases hi : i = r
  · subst hi
    have hi' : (g.set i ((g.getD i []).set c x)).getD i [] = (g.getD i []).set c x := by
      simp [List.getD, hlen]
    rw [hi']
    by_cases hj : j = c
    · subst hj
      rw [if_pos ⟨rfl, rfl⟩]
      have : j < (g.getD i []).length := by rw [hrow]; exact hc
      simp [List.getD] at this ⊢
      simp [this]
    · rw [if_neg (fun hh => hj hh.2)]
      simp [List.getD, List.getElem?_set_ne (Ne.symm hj)]
  · rw [if_neg (fun hh => hi hh.1)]
    simp [List.getD, List.getElem?_set_ne (Ne.symm hi)]

theorem Grid.square_putAll {n : Nat} (ws : List CellWrite) {g : Grid} (h : Grid.Square n g) :
    Grid.Square n (g.putAll ws) := by
  unfold Grid.putAll
  induction ws generalizing g with
  | nil => exact h
  | cons w ws ih => exact ih (Grid.square_put h _ _ _)

theorem Grid.square_placeData {n : Nat} (m : Nat) (order : List (Nat × Nat)) (stream : List Bool) {g : Grid}
    (h : Grid.Square n g) : Grid.Square n (placeData m order stream g) := by
  induction order generalizing stream g with
  | nil => exact h
  | cons p rest ih =>
    obtain ⟨r, c⟩ := p
    unfold placeData
    split
    · exact ih _ (Grid.square_put h _ _ _)
    · exact ih _ h

/-- The rows the scorer reads are the grid's row lines. -/
theorem Grid.colours_eq {n : Nat} {g : Grid} (h : Grid.Square n g) : g.colours = (List.range n).map (rowLine n g) := by
  apply List.ext_getElem (by simp [Grid.colours, h.1])
  intro i h1 _
  have hi : i < g.length := by simpa [Grid.colours] using h1
  have hrow : g[i].length = n := h.2 _ (List.getElem_mem hi)
  apply List.ext_getElem (by simp [Grid.colours, rowLine, hrow])
  intro j h3 _
  have hj : j < g[i].length := by simpa [Grid.colours] using h3
  simp [Grid.colours, rowLine, Grid.cell, List.getD, hi, hj]

/-- The columns it reads are the column lines. -/
theorem Grid.columnLines_eq {n : Nat} {g : Grid} (h : Grid.Square n g) :
    columnLines n g.colours = (List.range n).map (colLine n g) := by
  rw [Grid.colours_eq h]
  simp only [columnLines, List.map_map]
  apply List.map_congr_left
  intro c hc
  have hc : c < n := by simpa using hc
  simp [colLine, rowLine, List.getD, hc]

end Sys2Proof.Machine
end

