-- ==== Sys2Proof/Laws/Memory.lean ====
section
/-! SUPPORT. The laws of the stored windows: reading after writing, and that every operation keeps the canonical
form. -/

namespace Sys2Proof.Machine

/-! ## Rising lists -/

theorem Memory.rising_cons {c : Host.Cell} {t : Memory} :
    Memory.rising (c :: t) = true ↔ (∀ d ∈ t, c.1 < d.1) ∧ Memory.rising t = true := by
  induction t generalizing c with
  | nil => simp [Memory.rising]
  | cons d t ih =>
    simp only [Memory.rising, Bool.and_eq_true, decide_eq_true_eq, List.forall_mem_cons]
    constructor
    · rintro ⟨h, hr⟩
      exact ⟨⟨h, fun e he => h.trans ((ih.mp hr).1 e he)⟩, hr⟩
    · rintro ⟨⟨h, -⟩, hr⟩
      exact ⟨h, hr⟩

theorem Memory.wf_cons {c : Host.Cell} {t : Memory} :
    Memory.wf (c :: t) = true ↔ (∀ d ∈ t, c.1 < d.1) ∧ cellOk c = true ∧ Memory.wf t = true := by
  simp only [Memory.wf, Bool.and_eq_true, Memory.rising_cons, List.all_cons]
  tauto

@[simp] theorem Memory.wf_nil : Memory.wf [] = true := rfl

theorem Memory.wf_rising {m : Memory} (h : m.wf = true) : m.rising = true := by
  simp only [Memory.wf, Bool.and_eq_true] at h
  exact h.1

/-! ## Reading -/

@[simp] theorem Memory.read_nil (a : Nat) : Memory.read [] a = 0#8 := rfl

theorem Memory.read_cons (k : Nat) (v : Byte) (t : Memory) (a : Nat) :
    Memory.read ((k, v) :: t) a = if a = k then v else Memory.read t a := rfl

theorem Memory.read_eq_zero_of_lt {m : Memory} {a : Nat} (h : ∀ d ∈ m, a < d.1) : m.read a = 0#8 := by
  induction m with
  | nil => rfl
  | cons c t ih =>
    obtain ⟨k, v⟩ := c
    have hk : a < k := h (k, v) (by simp)
    rw [Memory.read_cons, if_neg (by omega)]
    exact ih fun d hd => h d (by simp [hd])

/-! ## Storing a byte -/

theorem Memory.mem_set {m : Memory} {a : Nat} {b : Byte} {d : Host.Cell} (h : d ∈ Memory.set m a b) :
    d ∈ m ∨ (d = (a, b) ∧ b ≠ 0#8) := by
  induction m with
  | nil => simp only [Memory.set] at h; split at h <;> simp_all
  | cons c t ih =>
    obtain ⟨k, v⟩ := c
    simp only [Memory.set] at h
    split at h
    · split at h <;> (simp_all; try tauto)
    · split at h
      · split at h <;> (simp_all; try tauto)
      · rcases List.mem_cons.mp h with rfl | h
        · simp
        · rcases ih h with h | h <;> simp [h]

theorem Memory.read_set {m : Memory} (hm : m.rising = true) (a : Nat) (b : Byte) (x : Nat) :
    (Memory.set m a b).read x = if x = a then b else m.read x := by
  induction m with
  | nil =>
    simp only [Memory.set]
    split <;> simp_all [Memory.read_cons]
  | cons c t ih =>
    obtain ⟨k, v⟩ := c
    have hlt := (Memory.rising_cons.mp hm).1
    specialize ih (Memory.rising_cons.mp hm).2
    simp only [Memory.set]
    split
    · rename_i hak
      have h0 : Memory.read ((k, v) :: t) a = 0#8 := Memory.read_eq_zero_of_lt fun d hd => by
        rcases List.mem_cons.mp hd with rfl | hd
        · exact hak
        · exact hak.trans (hlt d hd)
      split
      · by_cases hx : x = a <;> simp_all
      · simp [Memory.read_cons]
    · split
      · rename_i hak hk
        subst hk
        have h0 : Memory.read t a = 0#8 := Memory.read_eq_zero_of_lt hlt
        split
        · by_cases hx : x = a <;> simp_all [Memory.read_cons]
        · by_cases hx : x = a <;> simp_all [Memory.read_cons]
      · rename_i hak hk
        rw [Memory.read_cons, ih, Memory.read_cons]
        by_cases hx : x = k
        · subst hx; simp [Ne.symm hk]
        · simp [hx]

theorem Memory.rising_set {m : Memory} (hm : m.rising = true) (a : Nat) (b : Byte) :
    (Memory.set m a b).rising = true := by
  induction m with
  | nil => simp only [Memory.set]; split <;> simp [Memory.rising]
  | cons c t ih =>
    obtain ⟨k, v⟩ := c
    have ⟨hlt, ht⟩ := Memory.rising_cons.mp hm
    specialize ih ht
    simp only [Memory.set]
    split
    · rename_i hak
      split
      · exact hm
      · refine Memory.rising_cons.mpr ⟨fun d hd => ?_, hm⟩
        rcases List.mem_cons.mp hd with rfl | hd
        · exact hak
        · exact hak.trans (hlt d hd)
    · split
      · rename_i hak hk
        subst hk
        split
        · exact ht
        · exact Memory.rising_cons.mpr ⟨hlt, ht⟩
      · rename_i hak hk
        refine Memory.rising_cons.mpr ⟨fun d hd => ?_, ih⟩
        rcases Memory.mem_set hd with hd | ⟨rfl, -⟩
        · exact hlt d hd
        · show k < a; omega

theorem Memory.wf_set {m : Memory} (hm : m.wf = true) {a : Nat} {b : Byte}
    (hb : b &&& storageMask a = b) : (Memory.set m a b).wf = true := by
  have hr := Memory.rising_set (Memory.wf_rising hm) a b
  simp only [Memory.wf, Bool.and_eq_true, List.all_eq_true] at hm ⊢
  refine ⟨hr, fun d hd => ?_⟩
  rcases Memory.mem_set hd with hd | ⟨rfl, h0⟩
  · exact hm.2 d hd
  · simp [cellOk, h0, hb]

theorem Memory.wf_write {m : Memory} (hm : m.wf = true) (a : Nat) (b : Byte) :
    (Memory.write m a b).wf = true :=
  Memory.wf_set hm (by ext i; simp)

theorem Memory.rising_write {m : Memory} (hm : m.rising = true) (a : Nat) (b : Byte) :
    (Memory.write m a b).rising = true := Memory.rising_set hm a _

theorem Memory.read_write {m : Memory} (hm : m.rising = true) (a : Nat) (b : Byte) (x : Nat) :
    (Memory.write m a b).read x = if x = a then b &&& storageMask a else m.read x :=
  Memory.read_set hm a _ x

/-! ## Storing a list -/

@[simp] theorem Memory.writeList_nil (m : Memory) (a k : Nat) : m.writeList a k [] = m := rfl

theorem Memory.writeList_cons (m : Memory) (a k : Nat) (b : Byte) (bs : List Byte) :
    m.writeList a k (b :: bs) = (m.write a b).writeList (a + k) k bs := rfl

theorem Memory.wf_writeList {m : Memory} (hm : m.wf = true) (a k : Nat) (bs : List Byte) :
    (m.writeList a k bs).wf = true := by
  induction bs generalizing m a with
  | nil => exact hm
  | cons b bs ih => exact ih (Memory.wf_write hm a b) (a + k)

theorem Memory.rising_writeList {m : Memory} (hm : m.rising = true) (a k : Nat) (bs : List Byte) :
    (m.writeList a k bs).rising = true := by
  induction bs generalizing m a with
  | nil => exact hm
  | cons b bs ih => exact ih (Memory.rising_write hm a b) (a + k)

/-- A byte at no written place keeps its value. -/
theorem Memory.read_writeList_of_ne {m : Memory} (hm : m.rising = true) {a k x : Nat} {bs : List Byte}
    (hx : ∀ i < bs.length, x ≠ a + k * i) : (m.writeList a k bs).read x = m.read x := by
  induction bs generalizing m a with
  | nil => rfl
  | cons b bs ih =>
    rw [Memory.writeList_cons, ih (Memory.rising_write hm a b), Memory.read_write hm, if_neg]
    · simpa using hx 0 (by simp)
    · intro i hi h
      exact hx (i + 1) (by simpa using hi) (by rw [h, Nat.mul_succ]; omega)

/-- The i-th written place holds the i-th byte through its mask. -/
theorem Memory.read_writeList {m : Memory} (hm : m.rising = true) {a k i : Nat} (hk : 0 < k) {bs : List Byte}
    (hi : i < bs.length) : (m.writeList a k bs).read (a + k * i) = bs[i] &&& storageMask (a + k * i) := by
  induction bs generalizing m a i with
  | nil => simp at hi
  | cons b bs ih =>
    rw [Memory.writeList_cons]
    cases i with
    | zero =>
      have hne : ∀ j < bs.length, a ≠ a + k + k * j := fun j _ => by
        have := Nat.zero_le (k * j); omega
      simpa using (Memory.read_writeList_of_ne (Memory.rising_write hm a b) hne).trans
        (by rw [Memory.read_write hm, if_pos rfl])
    | succ i =>
      have h := ih (Memory.rising_write hm a b) (a := a + k) (i := i) (by simpa using hi)
      rw [show a + k * (i + 1) = a + k + k * i by rw [Nat.mul_succ]; omega]
      simpa using h

theorem Memory.wf_writeWord {m : Memory} (hm : m.wf = true) (a : Nat) (v : Word) :
    (m.writeWord a v).wf = true := Memory.wf_writeList hm a 1 _

theorem Memory.wf_ofCells (c : List Host.Cell) : (Memory.ofCells c).wf = true := by
  induction c with
  | nil => rfl
  | cons d t ih => exact Memory.wf_write ih d.1 d.2

/-! ## Canonical memories are equal exactly when they read equal -/

theorem Memory.ext_read {m n : Memory} (hm : m.wf = true) (hn : n.wf = true)
    (h : ∀ a, m.read a = n.read a) : m = n := by
  have hne : ∀ {c : Host.Cell}, cellOk c = true → c.2 ≠ 0#8 := fun hc h0 => by simp [cellOk, h0] at hc
  induction m generalizing n with
  | nil =>
    cases n with
    | nil => rfl
    | cons d n =>
      have hd := (Memory.wf_cons.mp hn).2.1
      have := h d.1
      exact absurd (by simpa [Memory.read] using this.symm) (hne hd)
  | cons c m ih =>
    obtain ⟨k, v⟩ := c
    have ⟨hlt, hc, hm'⟩ := Memory.wf_cons.mp hm
    cases n with
    | nil =>
      have := h k
      exact absurd (by simpa [Memory.read] using this) (hne hc)
    | cons d n =>
      obtain ⟨j, w⟩ := d
      have ⟨hlt', hd, hn'⟩ := Memory.wf_cons.mp hn
      have hzero : ∀ {t : Memory} {q : Nat}, (∀ d ∈ t, q < d.1) → ∀ x ≤ q, t.read x = 0#8 :=
        fun ht x hx => Memory.read_eq_zero_of_lt fun d hd => lt_of_le_of_lt hx (ht d hd)
      have hkj : k = j := by
        rcases Nat.lt_trichotomy k j with hlt1 | h1 | hlt1
        · have := h k
          rw [Memory.read_cons, if_pos rfl, Memory.read_cons, if_neg (by omega),
            hzero hlt' k (by omega)] at this
          exact absurd this (hne hc)
        · exact h1
        · have := h j
          rw [Memory.read_cons, if_neg (by omega), hzero hlt j (by omega), Memory.read_cons,
            if_pos rfl] at this
          exact absurd this.symm (hne hd)
      subst hkj
      have hv : v = w := by simpa [Memory.read_cons] using h k
      subst hv
      rw [ih hm' hn' fun a => ?_]
      by_cases ha : a = k
      · subst ha
        rw [hzero hlt a le_rfl, hzero hlt' a le_rfl]
      · simpa [Memory.read_cons, ha] using h a

/-! ## The masks of the places -/

theorem PReg.index_lt (k : PReg) : PReg.index k < 4 := by cases k <;> decide

theorem storageMask_prAddr (k : PReg) {i : Nat} (hi : i < Config.polyMax) :
    storageMask (prAddr k i) = 0xFF#8 := by
  simp only [Config.polyMax] at hi
  have hk := PReg.index_lt k
  unfold storageMask prAddr
  split_ifs <;> first | rfl | (exfalso; omega)

theorem storageMask_cwAddr {i : Nat} (hi : i < Config.cwCap) : storageMask (cwAddr i) = 0xFF#8 := by
  simp only [Config.cwCap] at hi
  unfold storageMask cwAddr
  split_ifs <;> first | rfl | (exfalso; omega)

theorem storageMask_textAddr {i j : Nat} (hi : i < Config.textCap) (hj : j < 4) :
    storageMask (textAddr i + j) = 0xFF#8 := by
  simp only [Config.textCap] at hi
  unfold storageMask textAddr
  split_ifs <;> first | rfl | (exfalso; omega)

theorem storageMask_segModeAddr {k : Nat} (hk : k < Config.segCap) :
    storageMask (segModeAddr k) = 0x0F#8 := by
  simp only [Config.segCap] at hk
  unfold storageMask segModeAddr
  split_ifs <;> first | rfl | (exfalso; omega)

theorem storageMask_segPosAddr {k j : Nat} (hk : k < Config.segCap) (hj : j < 4) :
    storageMask (segPosAddr k + j) = 0xFF#8 := by
  simp only [Config.segCap] at hk
  unfold storageMask segPosAddr
  split_ifs <;> first | rfl | (exfalso; omega)

@[simp] theorem and_fullMask (b : Byte) : b &&& 0xFF#8 = b := by
  have : (0xFF#8 : Byte) = BitVec.allOnes 8 := rfl
  rw [this, BitVec.and_allOnes]

end Sys2Proof.Machine
end

