-- ==== Sys2Proof/Laws/State.lean ====
section
/-! SUPPORT. One lemma per field per update of State, true by computation: a proof about an update rewrites with these
and never unfolds the record. -/

namespace Sys2Proof.Machine

variable (s : State)

/-! ## setRes0 -/

@[simp] theorem State.setRes0_ie (v : Word) : (s.setRes0 v).ie = s.ie := rfl
@[simp] theorem State.setRes0_seq (v : Word) : (s.setRes0 v).seq = s.seq := rfl
@[simp] theorem State.setRes0_done (v : Word) : (s.setRes0 v).done = s.done := rfl
@[simp] theorem State.setRes0_overrun (v : Word) : (s.setRes0 v).overrun = s.overrun := rfl
@[simp] theorem State.setRes0_err (v : Word) : (s.setRes0 v).err = s.err := rfl
@[simp] theorem State.setRes0_arg0 (v : Word) : (s.setRes0 v).arg0 = s.arg0 := rfl
@[simp] theorem State.setRes0_arg1 (v : Word) : (s.setRes0 v).arg1 = s.arg1 := rfl
@[simp] theorem State.setRes0_arg2 (v : Word) : (s.setRes0 v).arg2 = s.arg2 := rfl
@[simp] theorem State.setRes0_res0 (v : Word) : (s.setRes0 v).res0 = v := rfl
@[simp] theorem State.setRes0_res1 (v : Word) : (s.setRes0 v).res1 = s.res1 := rfl
@[simp] theorem State.setRes0_cfgEcl (v : Word) : (s.setRes0 v).cfgEcl = s.cfgEcl := rfl
@[simp] theorem State.setRes0_cfgVersion (v : Word) : (s.setRes0 v).cfgVersion = s.cfgVersion := rfl
@[simp] theorem State.setRes0_segCount (v : Word) : (s.setRes0 v).segCount = s.segCount := rfl
@[simp] theorem State.setRes0_moduleCount (v : Word) : (s.setRes0 v).moduleCount = s.moduleCount := rfl
@[simp] theorem State.setRes0_symVersion (v : Word) : (s.setRes0 v).symVersion = s.symVersion := rfl
@[simp] theorem State.setRes0_symMask (v : Word) : (s.setRes0 v).symMask = s.symMask := rfl
@[simp] theorem State.setRes0_symEcl (v : Word) : (s.setRes0 v).symEcl = s.symEcl := rfl
@[simp] theorem State.setRes0_cwLen (v : Word) : (s.setRes0 v).cwLen = s.cwLen := rfl
@[simp] theorem State.setRes0_plen0 (v : Word) : (s.setRes0 v).plen0 = s.plen0 := rfl
@[simp] theorem State.setRes0_plen1 (v : Word) : (s.setRes0 v).plen1 = s.plen1 := rfl
@[simp] theorem State.setRes0_plen2 (v : Word) : (s.setRes0 v).plen2 = s.plen2 := rfl
@[simp] theorem State.setRes0_plen3 (v : Word) : (s.setRes0 v).plen3 = s.plen3 := rfl
@[simp] theorem State.setRes0_mem (v : Word) : (s.setRes0 v).mem = s.mem := rfl
@[simp] theorem State.setRes0_bb (v : Word) : (s.setRes0 v).bb = s.bb := rfl
@[simp] theorem State.setRes0_gridState (v : Word) : (s.setRes0 v).gridState = s.gridState := rfl
@[simp] theorem State.setRes0_grid (v : Word) : (s.setRes0 v).grid = s.grid := rfl
@[simp] theorem State.setRes0_rst (v : Word) : (s.setRes0 v).rst = s.rst := rfl
@[simp] theorem State.setRes0_bus (v : Word) : (s.setRes0 v).bus = s.bus := rfl
@[simp] theorem State.setRes0_resp (v : Word) : (s.setRes0 v).resp = s.resp := rfl
@[simp] theorem State.setRes0_latency (v : Word) : (s.setRes0 v).latency = s.latency := rfl
@[simp] theorem State.setRes0_draws (v : Word) : (s.setRes0 v).draws = s.draws := rfl

/-! ## setRes1 -/

@[simp] theorem State.setRes1_ie (v : Word) : (s.setRes1 v).ie = s.ie := rfl
@[simp] theorem State.setRes1_seq (v : Word) : (s.setRes1 v).seq = s.seq := rfl
@[simp] theorem State.setRes1_done (v : Word) : (s.setRes1 v).done = s.done := rfl
@[simp] theorem State.setRes1_overrun (v : Word) : (s.setRes1 v).overrun = s.overrun := rfl
@[simp] theorem State.setRes1_err (v : Word) : (s.setRes1 v).err = s.err := rfl
@[simp] theorem State.setRes1_arg0 (v : Word) : (s.setRes1 v).arg0 = s.arg0 := rfl
@[simp] theorem State.setRes1_arg1 (v : Word) : (s.setRes1 v).arg1 = s.arg1 := rfl
@[simp] theorem State.setRes1_arg2 (v : Word) : (s.setRes1 v).arg2 = s.arg2 := rfl
@[simp] theorem State.setRes1_res0 (v : Word) : (s.setRes1 v).res0 = s.res0 := rfl
@[simp] theorem State.setRes1_res1 (v : Word) : (s.setRes1 v).res1 = v := rfl
@[simp] theorem State.setRes1_cfgEcl (v : Word) : (s.setRes1 v).cfgEcl = s.cfgEcl := rfl
@[simp] theorem State.setRes1_cfgVersion (v : Word) : (s.setRes1 v).cfgVersion = s.cfgVersion := rfl
@[simp] theorem State.setRes1_segCount (v : Word) : (s.setRes1 v).segCount = s.segCount := rfl
@[simp] theorem State.setRes1_moduleCount (v : Word) : (s.setRes1 v).moduleCount = s.moduleCount := rfl
@[simp] theorem State.setRes1_symVersion (v : Word) : (s.setRes1 v).symVersion = s.symVersion := rfl
@[simp] theorem State.setRes1_symMask (v : Word) : (s.setRes1 v).symMask = s.symMask := rfl
@[simp] theorem State.setRes1_symEcl (v : Word) : (s.setRes1 v).symEcl = s.symEcl := rfl
@[simp] theorem State.setRes1_cwLen (v : Word) : (s.setRes1 v).cwLen = s.cwLen := rfl
@[simp] theorem State.setRes1_plen0 (v : Word) : (s.setRes1 v).plen0 = s.plen0 := rfl
@[simp] theorem State.setRes1_plen1 (v : Word) : (s.setRes1 v).plen1 = s.plen1 := rfl
@[simp] theorem State.setRes1_plen2 (v : Word) : (s.setRes1 v).plen2 = s.plen2 := rfl
@[simp] theorem State.setRes1_plen3 (v : Word) : (s.setRes1 v).plen3 = s.plen3 := rfl
@[simp] theorem State.setRes1_mem (v : Word) : (s.setRes1 v).mem = s.mem := rfl
@[simp] theorem State.setRes1_bb (v : Word) : (s.setRes1 v).bb = s.bb := rfl
@[simp] theorem State.setRes1_gridState (v : Word) : (s.setRes1 v).gridState = s.gridState := rfl
@[simp] theorem State.setRes1_grid (v : Word) : (s.setRes1 v).grid = s.grid := rfl
@[simp] theorem State.setRes1_rst (v : Word) : (s.setRes1 v).rst = s.rst := rfl
@[simp] theorem State.setRes1_bus (v : Word) : (s.setRes1 v).bus = s.bus := rfl
@[simp] theorem State.setRes1_resp (v : Word) : (s.setRes1 v).resp = s.resp := rfl
@[simp] theorem State.setRes1_latency (v : Word) : (s.setRes1 v).latency = s.latency := rfl
@[simp] theorem State.setRes1_draws (v : Word) : (s.setRes1 v).draws = s.draws := rfl

/-! ## setMem -/

@[simp] theorem State.setMem_ie (m : Memory) : (s.setMem m).ie = s.ie := rfl
@[simp] theorem State.setMem_seq (m : Memory) : (s.setMem m).seq = s.seq := rfl
@[simp] theorem State.setMem_done (m : Memory) : (s.setMem m).done = s.done := rfl
@[simp] theorem State.setMem_overrun (m : Memory) : (s.setMem m).overrun = s.overrun := rfl
@[simp] theorem State.setMem_err (m : Memory) : (s.setMem m).err = s.err := rfl
@[simp] theorem State.setMem_arg0 (m : Memory) : (s.setMem m).arg0 = s.arg0 := rfl
@[simp] theorem State.setMem_arg1 (m : Memory) : (s.setMem m).arg1 = s.arg1 := rfl
@[simp] theorem State.setMem_arg2 (m : Memory) : (s.setMem m).arg2 = s.arg2 := rfl
@[simp] theorem State.setMem_res0 (m : Memory) : (s.setMem m).res0 = s.res0 := rfl
@[simp] theorem State.setMem_res1 (m : Memory) : (s.setMem m).res1 = s.res1 := rfl
@[simp] theorem State.setMem_cfgEcl (m : Memory) : (s.setMem m).cfgEcl = s.cfgEcl := rfl
@[simp] theorem State.setMem_cfgVersion (m : Memory) : (s.setMem m).cfgVersion = s.cfgVersion := rfl
@[simp] theorem State.setMem_segCount (m : Memory) : (s.setMem m).segCount = s.segCount := rfl
@[simp] theorem State.setMem_moduleCount (m : Memory) : (s.setMem m).moduleCount = s.moduleCount := rfl
@[simp] theorem State.setMem_symVersion (m : Memory) : (s.setMem m).symVersion = s.symVersion := rfl
@[simp] theorem State.setMem_symMask (m : Memory) : (s.setMem m).symMask = s.symMask := rfl
@[simp] theorem State.setMem_symEcl (m : Memory) : (s.setMem m).symEcl = s.symEcl := rfl
@[simp] theorem State.setMem_cwLen (m : Memory) : (s.setMem m).cwLen = s.cwLen := rfl
@[simp] theorem State.setMem_plen0 (m : Memory) : (s.setMem m).plen0 = s.plen0 := rfl
@[simp] theorem State.setMem_plen1 (m : Memory) : (s.setMem m).plen1 = s.plen1 := rfl
@[simp] theorem State.setMem_plen2 (m : Memory) : (s.setMem m).plen2 = s.plen2 := rfl
@[simp] theorem State.setMem_plen3 (m : Memory) : (s.setMem m).plen3 = s.plen3 := rfl
@[simp] theorem State.setMem_mem (m : Memory) : (s.setMem m).mem = m := rfl
@[simp] theorem State.setMem_bb (m : Memory) : (s.setMem m).bb = s.bb := rfl
@[simp] theorem State.setMem_gridState (m : Memory) : (s.setMem m).gridState = s.gridState := rfl
@[simp] theorem State.setMem_grid (m : Memory) : (s.setMem m).grid = s.grid := rfl
@[simp] theorem State.setMem_rst (m : Memory) : (s.setMem m).rst = s.rst := rfl
@[simp] theorem State.setMem_bus (m : Memory) : (s.setMem m).bus = s.bus := rfl
@[simp] theorem State.setMem_resp (m : Memory) : (s.setMem m).resp = s.resp := rfl
@[simp] theorem State.setMem_latency (m : Memory) : (s.setMem m).latency = s.latency := rfl
@[simp] theorem State.setMem_draws (m : Memory) : (s.setMem m).draws = s.draws := rfl

/-! ## setPlen -/

@[simp] theorem State.setPlen_ie (k : PReg) (v : BitVec 9) : (s.setPlen k v).ie = s.ie := by cases k <;> rfl
@[simp] theorem State.setPlen_seq (k : PReg) (v : BitVec 9) : (s.setPlen k v).seq = s.seq := by cases k <;> rfl
@[simp] theorem State.setPlen_done (k : PReg) (v : BitVec 9) : (s.setPlen k v).done = s.done := by cases k <;> rfl
@[simp] theorem State.setPlen_overrun (k : PReg) (v : BitVec 9) : (s.setPlen k v).overrun = s.overrun := by cases k <;> rfl
@[simp] theorem State.setPlen_err (k : PReg) (v : BitVec 9) : (s.setPlen k v).err = s.err := by cases k <;> rfl
@[simp] theorem State.setPlen_arg0 (k : PReg) (v : BitVec 9) : (s.setPlen k v).arg0 = s.arg0 := by cases k <;> rfl
@[simp] theorem State.setPlen_arg1 (k : PReg) (v : BitVec 9) : (s.setPlen k v).arg1 = s.arg1 := by cases k <;> rfl
@[simp] theorem State.setPlen_arg2 (k : PReg) (v : BitVec 9) : (s.setPlen k v).arg2 = s.arg2 := by cases k <;> rfl
@[simp] theorem State.setPlen_res0 (k : PReg) (v : BitVec 9) : (s.setPlen k v).res0 = s.res0 := by cases k <;> rfl
@[simp] theorem State.setPlen_res1 (k : PReg) (v : BitVec 9) : (s.setPlen k v).res1 = s.res1 := by cases k <;> rfl
@[simp] theorem State.setPlen_cfgEcl (k : PReg) (v : BitVec 9) : (s.setPlen k v).cfgEcl = s.cfgEcl := by cases k <;> rfl
@[simp] theorem State.setPlen_cfgVersion (k : PReg) (v : BitVec 9) : (s.setPlen k v).cfgVersion = s.cfgVersion := by cases k <;> rfl
@[simp] theorem State.setPlen_segCount (k : PReg) (v : BitVec 9) : (s.setPlen k v).segCount = s.segCount := by cases k <;> rfl
@[simp] theorem State.setPlen_moduleCount (k : PReg) (v : BitVec 9) : (s.setPlen k v).moduleCount = s.moduleCount := by cases k <;> rfl
@[simp] theorem State.setPlen_symVersion (k : PReg) (v : BitVec 9) : (s.setPlen k v).symVersion = s.symVersion := by cases k <;> rfl
@[simp] theorem State.setPlen_symMask (k : PReg) (v : BitVec 9) : (s.setPlen k v).symMask = s.symMask := by cases k <;> rfl
@[simp] theorem State.setPlen_symEcl (k : PReg) (v : BitVec 9) : (s.setPlen k v).symEcl = s.symEcl := by cases k <;> rfl
@[simp] theorem State.setPlen_cwLen (k : PReg) (v : BitVec 9) : (s.setPlen k v).cwLen = s.cwLen := by cases k <;> rfl
@[simp] theorem State.setPlen_plen0 (k : PReg) (v : BitVec 9) : (s.setPlen k v).plen0 = (if k = .p0 then v else s.plen0) := by cases k <;> rfl
@[simp] theorem State.setPlen_plen1 (k : PReg) (v : BitVec 9) : (s.setPlen k v).plen1 = (if k = .p1 then v else s.plen1) := by cases k <;> rfl
@[simp] theorem State.setPlen_plen2 (k : PReg) (v : BitVec 9) : (s.setPlen k v).plen2 = (if k = .p2 then v else s.plen2) := by cases k <;> rfl
@[simp] theorem State.setPlen_plen3 (k : PReg) (v : BitVec 9) : (s.setPlen k v).plen3 = (if k = .p3 then v else s.plen3) := by cases k <;> rfl
@[simp] theorem State.setPlen_mem (k : PReg) (v : BitVec 9) : (s.setPlen k v).mem = s.mem := by cases k <;> rfl
@[simp] theorem State.setPlen_bb (k : PReg) (v : BitVec 9) : (s.setPlen k v).bb = s.bb := by cases k <;> rfl
@[simp] theorem State.setPlen_gridState (k : PReg) (v : BitVec 9) : (s.setPlen k v).gridState = s.gridState := by cases k <;> rfl
@[simp] theorem State.setPlen_grid (k : PReg) (v : BitVec 9) : (s.setPlen k v).grid = s.grid := by cases k <;> rfl
@[simp] theorem State.setPlen_rst (k : PReg) (v : BitVec 9) : (s.setPlen k v).rst = s.rst := by cases k <;> rfl
@[simp] theorem State.setPlen_bus (k : PReg) (v : BitVec 9) : (s.setPlen k v).bus = s.bus := by cases k <;> rfl
@[simp] theorem State.setPlen_resp (k : PReg) (v : BitVec 9) : (s.setPlen k v).resp = s.resp := by cases k <;> rfl
@[simp] theorem State.setPlen_latency (k : PReg) (v : BitVec 9) : (s.setPlen k v).latency = s.latency := by cases k <;> rfl
@[simp] theorem State.setPlen_draws (k : PReg) (v : BitVec 9) : (s.setPlen k v).draws = s.draws := by cases k <;> rfl

/-! ## writePoly -/

@[simp] theorem State.writePoly_ie (k : PReg) (r : List Byte) : (s.writePoly k r).ie = s.ie := by cases k <;> rfl
@[simp] theorem State.writePoly_seq (k : PReg) (r : List Byte) : (s.writePoly k r).seq = s.seq := by cases k <;> rfl
@[simp] theorem State.writePoly_done (k : PReg) (r : List Byte) : (s.writePoly k r).done = s.done := by cases k <;> rfl
@[simp] theorem State.writePoly_overrun (k : PReg) (r : List Byte) : (s.writePoly k r).overrun = s.overrun := by cases k <;> rfl
@[simp] theorem State.writePoly_err (k : PReg) (r : List Byte) : (s.writePoly k r).err = s.err := by cases k <;> rfl
@[simp] theorem State.writePoly_arg0 (k : PReg) (r : List Byte) : (s.writePoly k r).arg0 = s.arg0 := by cases k <;> rfl
@[simp] theorem State.writePoly_arg1 (k : PReg) (r : List Byte) : (s.writePoly k r).arg1 = s.arg1 := by cases k <;> rfl
@[simp] theorem State.writePoly_arg2 (k : PReg) (r : List Byte) : (s.writePoly k r).arg2 = s.arg2 := by cases k <;> rfl
@[simp] theorem State.writePoly_res0 (k : PReg) (r : List Byte) : (s.writePoly k r).res0 = s.res0 := by cases k <;> rfl
@[simp] theorem State.writePoly_res1 (k : PReg) (r : List Byte) : (s.writePoly k r).res1 = s.res1 := by cases k <;> rfl
@[simp] theorem State.writePoly_cfgEcl (k : PReg) (r : List Byte) : (s.writePoly k r).cfgEcl = s.cfgEcl := by cases k <;> rfl
@[simp] theorem State.writePoly_cfgVersion (k : PReg) (r : List Byte) : (s.writePoly k r).cfgVersion = s.cfgVersion := by cases k <;> rfl
@[simp] theorem State.writePoly_segCount (k : PReg) (r : List Byte) : (s.writePoly k r).segCount = s.segCount := by cases k <;> rfl
@[simp] theorem State.writePoly_moduleCount (k : PReg) (r : List Byte) : (s.writePoly k r).moduleCount = s.moduleCount := by cases k <;> rfl
@[simp] theorem State.writePoly_symVersion (k : PReg) (r : List Byte) : (s.writePoly k r).symVersion = s.symVersion := by cases k <;> rfl
@[simp] theorem State.writePoly_symMask (k : PReg) (r : List Byte) : (s.writePoly k r).symMask = s.symMask := by cases k <;> rfl
@[simp] theorem State.writePoly_symEcl (k : PReg) (r : List Byte) : (s.writePoly k r).symEcl = s.symEcl := by cases k <;> rfl
@[simp] theorem State.writePoly_cwLen (k : PReg) (r : List Byte) : (s.writePoly k r).cwLen = s.cwLen := by cases k <;> rfl
@[simp] theorem State.writePoly_plen0 (k : PReg) (r : List Byte) : (s.writePoly k r).plen0 = (if k = .p0 then BitVec.ofNat 9 r.length else s.plen0) := by cases k <;> rfl
@[simp] theorem State.writePoly_plen1 (k : PReg) (r : List Byte) : (s.writePoly k r).plen1 = (if k = .p1 then BitVec.ofNat 9 r.length else s.plen1) := by cases k <;> rfl
@[simp] theorem State.writePoly_plen2 (k : PReg) (r : List Byte) : (s.writePoly k r).plen2 = (if k = .p2 then BitVec.ofNat 9 r.length else s.plen2) := by cases k <;> rfl
@[simp] theorem State.writePoly_plen3 (k : PReg) (r : List Byte) : (s.writePoly k r).plen3 = (if k = .p3 then BitVec.ofNat 9 r.length else s.plen3) := by cases k <;> rfl
@[simp] theorem State.writePoly_mem (k : PReg) (r : List Byte) : (s.writePoly k r).mem = s.mem.writeList (prAddr k 0) 4 r := by cases k <;> rfl
@[simp] theorem State.writePoly_bb (k : PReg) (r : List Byte) : (s.writePoly k r).bb = s.bb := by cases k <;> rfl
@[simp] theorem State.writePoly_gridState (k : PReg) (r : List Byte) : (s.writePoly k r).gridState = s.gridState := by cases k <;> rfl
@[simp] theorem State.writePoly_grid (k : PReg) (r : List Byte) : (s.writePoly k r).grid = s.grid := by cases k <;> rfl
@[simp] theorem State.writePoly_rst (k : PReg) (r : List Byte) : (s.writePoly k r).rst = s.rst := by cases k <;> rfl
@[simp] theorem State.writePoly_bus (k : PReg) (r : List Byte) : (s.writePoly k r).bus = s.bus := by cases k <;> rfl
@[simp] theorem State.writePoly_resp (k : PReg) (r : List Byte) : (s.writePoly k r).resp = s.resp := by cases k <;> rfl
@[simp] theorem State.writePoly_latency (k : PReg) (r : List Byte) : (s.writePoly k r).latency = s.latency := by cases k <;> rfl
@[simp] theorem State.writePoly_draws (k : PReg) (r : List Byte) : (s.writePoly k r).draws = s.draws := by cases k <;> rfl

/-! ## writeCodewords -/

@[simp] theorem State.writeCodewords_ie (o : List Byte) : (s.writeCodewords o).ie = s.ie := rfl
@[simp] theorem State.writeCodewords_seq (o : List Byte) : (s.writeCodewords o).seq = s.seq := rfl
@[simp] theorem State.writeCodewords_done (o : List Byte) : (s.writeCodewords o).done = s.done := rfl
@[simp] theorem State.writeCodewords_overrun (o : List Byte) : (s.writeCodewords o).overrun = s.overrun := rfl
@[simp] theorem State.writeCodewords_err (o : List Byte) : (s.writeCodewords o).err = s.err := rfl
@[simp] theorem State.writeCodewords_arg0 (o : List Byte) : (s.writeCodewords o).arg0 = s.arg0 := rfl
@[simp] theorem State.writeCodewords_arg1 (o : List Byte) : (s.writeCodewords o).arg1 = s.arg1 := rfl
@[simp] theorem State.writeCodewords_arg2 (o : List Byte) : (s.writeCodewords o).arg2 = s.arg2 := rfl
@[simp] theorem State.writeCodewords_res0 (o : List Byte) : (s.writeCodewords o).res0 = s.res0 := rfl
@[simp] theorem State.writeCodewords_res1 (o : List Byte) : (s.writeCodewords o).res1 = s.res1 := rfl
@[simp] theorem State.writeCodewords_cfgEcl (o : List Byte) : (s.writeCodewords o).cfgEcl = s.cfgEcl := rfl
@[simp] theorem State.writeCodewords_cfgVersion (o : List Byte) : (s.writeCodewords o).cfgVersion = s.cfgVersion := rfl
@[simp] theorem State.writeCodewords_segCount (o : List Byte) : (s.writeCodewords o).segCount = s.segCount := rfl
@[simp] theorem State.writeCodewords_moduleCount (o : List Byte) : (s.writeCodewords o).moduleCount = s.moduleCount := rfl
@[simp] theorem State.writeCodewords_symVersion (o : List Byte) : (s.writeCodewords o).symVersion = s.symVersion := rfl
@[simp] theorem State.writeCodewords_symMask (o : List Byte) : (s.writeCodewords o).symMask = s.symMask := rfl
@[simp] theorem State.writeCodewords_symEcl (o : List Byte) : (s.writeCodewords o).symEcl = s.symEcl := rfl
@[simp] theorem State.writeCodewords_cwLen (o : List Byte) : (s.writeCodewords o).cwLen = BitVec.ofNat 12 o.length := rfl
@[simp] theorem State.writeCodewords_plen0 (o : List Byte) : (s.writeCodewords o).plen0 = s.plen0 := rfl
@[simp] theorem State.writeCodewords_plen1 (o : List Byte) : (s.writeCodewords o).plen1 = s.plen1 := rfl
@[simp] theorem State.writeCodewords_plen2 (o : List Byte) : (s.writeCodewords o).plen2 = s.plen2 := rfl
@[simp] theorem State.writeCodewords_plen3 (o : List Byte) : (s.writeCodewords o).plen3 = s.plen3 := rfl
@[simp] theorem State.writeCodewords_mem (o : List Byte) : (s.writeCodewords o).mem = s.mem.writeList (cwAddr 0) 4 o := rfl
@[simp] theorem State.writeCodewords_bb (o : List Byte) : (s.writeCodewords o).bb = s.bb := rfl
@[simp] theorem State.writeCodewords_gridState (o : List Byte) : (s.writeCodewords o).gridState = s.gridState := rfl
@[simp] theorem State.writeCodewords_grid (o : List Byte) : (s.writeCodewords o).grid = s.grid := rfl
@[simp] theorem State.writeCodewords_rst (o : List Byte) : (s.writeCodewords o).rst = s.rst := rfl
@[simp] theorem State.writeCodewords_bus (o : List Byte) : (s.writeCodewords o).bus = s.bus := rfl
@[simp] theorem State.writeCodewords_resp (o : List Byte) : (s.writeCodewords o).resp = s.resp := rfl
@[simp] theorem State.writeCodewords_latency (o : List Byte) : (s.writeCodewords o).latency = s.latency := rfl
@[simp] theorem State.writeCodewords_draws (o : List Byte) : (s.writeCodewords o).draws = s.draws := rfl

/-! ## setBits -/

@[simp] theorem State.setBits_ie (b : List Bool) : (s.setBits b).ie = s.ie := rfl
@[simp] theorem State.setBits_seq (b : List Bool) : (s.setBits b).seq = s.seq := rfl
@[simp] theorem State.setBits_done (b : List Bool) : (s.setBits b).done = s.done := rfl
@[simp] theorem State.setBits_overrun (b : List Bool) : (s.setBits b).overrun = s.overrun := rfl
@[simp] theorem State.setBits_err (b : List Bool) : (s.setBits b).err = s.err := rfl
@[simp] theorem State.setBits_arg0 (b : List Bool) : (s.setBits b).arg0 = s.arg0 := rfl
@[simp] theorem State.setBits_arg1 (b : List Bool) : (s.setBits b).arg1 = s.arg1 := rfl
@[simp] theorem State.setBits_arg2 (b : List Bool) : (s.setBits b).arg2 = s.arg2 := rfl
@[simp] theorem State.setBits_res0 (b : List Bool) : (s.setBits b).res0 = s.res0 := rfl
@[simp] theorem State.setBits_res1 (b : List Bool) : (s.setBits b).res1 = s.res1 := rfl
@[simp] theorem State.setBits_cfgEcl (b : List Bool) : (s.setBits b).cfgEcl = s.cfgEcl := rfl
@[simp] theorem State.setBits_cfgVersion (b : List Bool) : (s.setBits b).cfgVersion = s.cfgVersion := rfl
@[simp] theorem State.setBits_segCount (b : List Bool) : (s.setBits b).segCount = s.segCount := rfl
@[simp] theorem State.setBits_moduleCount (b : List Bool) : (s.setBits b).moduleCount = s.moduleCount := rfl
@[simp] theorem State.setBits_symVersion (b : List Bool) : (s.setBits b).symVersion = s.symVersion := rfl
@[simp] theorem State.setBits_symMask (b : List Bool) : (s.setBits b).symMask = s.symMask := rfl
@[simp] theorem State.setBits_symEcl (b : List Bool) : (s.setBits b).symEcl = s.symEcl := rfl
@[simp] theorem State.setBits_cwLen (b : List Bool) : (s.setBits b).cwLen = s.cwLen := rfl
@[simp] theorem State.setBits_plen0 (b : List Bool) : (s.setBits b).plen0 = s.plen0 := rfl
@[simp] theorem State.setBits_plen1 (b : List Bool) : (s.setBits b).plen1 = s.plen1 := rfl
@[simp] theorem State.setBits_plen2 (b : List Bool) : (s.setBits b).plen2 = s.plen2 := rfl
@[simp] theorem State.setBits_plen3 (b : List Bool) : (s.setBits b).plen3 = s.plen3 := rfl
@[simp] theorem State.setBits_mem (b : List Bool) : (s.setBits b).mem = s.mem := rfl
@[simp] theorem State.setBits_bb (b : List Bool) : (s.setBits b).bb = b := rfl
@[simp] theorem State.setBits_gridState (b : List Bool) : (s.setBits b).gridState = s.gridState := rfl
@[simp] theorem State.setBits_grid (b : List Bool) : (s.setBits b).grid = s.grid := rfl
@[simp] theorem State.setBits_rst (b : List Bool) : (s.setBits b).rst = s.rst := rfl
@[simp] theorem State.setBits_bus (b : List Bool) : (s.setBits b).bus = s.bus := rfl
@[simp] theorem State.setBits_resp (b : List Bool) : (s.setBits b).resp = s.resp := rfl
@[simp] theorem State.setBits_latency (b : List Bool) : (s.setBits b).latency = s.latency := rfl
@[simp] theorem State.setBits_draws (b : List Bool) : (s.setBits b).draws = s.draws := rfl

/-! ## clearBits -/

@[simp] theorem State.clearBits_ie : (s.clearBits).ie = s.ie := rfl
@[simp] theorem State.clearBits_seq : (s.clearBits).seq = s.seq := rfl
@[simp] theorem State.clearBits_done : (s.clearBits).done = s.done := rfl
@[simp] theorem State.clearBits_overrun : (s.clearBits).overrun = s.overrun := rfl
@[simp] theorem State.clearBits_err : (s.clearBits).err = s.err := rfl
@[simp] theorem State.clearBits_arg0 : (s.clearBits).arg0 = s.arg0 := rfl
@[simp] theorem State.clearBits_arg1 : (s.clearBits).arg1 = s.arg1 := rfl
@[simp] theorem State.clearBits_arg2 : (s.clearBits).arg2 = s.arg2 := rfl
@[simp] theorem State.clearBits_res0 : (s.clearBits).res0 = s.res0 := rfl
@[simp] theorem State.clearBits_res1 : (s.clearBits).res1 = s.res1 := rfl
@[simp] theorem State.clearBits_cfgEcl : (s.clearBits).cfgEcl = s.cfgEcl := rfl
@[simp] theorem State.clearBits_cfgVersion : (s.clearBits).cfgVersion = s.cfgVersion := rfl
@[simp] theorem State.clearBits_segCount : (s.clearBits).segCount = s.segCount := rfl
@[simp] theorem State.clearBits_moduleCount : (s.clearBits).moduleCount = s.moduleCount := rfl
@[simp] theorem State.clearBits_symVersion : (s.clearBits).symVersion = s.symVersion := rfl
@[simp] theorem State.clearBits_symMask : (s.clearBits).symMask = s.symMask := rfl
@[simp] theorem State.clearBits_symEcl : (s.clearBits).symEcl = s.symEcl := rfl
@[simp] theorem State.clearBits_cwLen : (s.clearBits).cwLen = s.cwLen := rfl
@[simp] theorem State.clearBits_plen0 : (s.clearBits).plen0 = s.plen0 := rfl
@[simp] theorem State.clearBits_plen1 : (s.clearBits).plen1 = s.plen1 := rfl
@[simp] theorem State.clearBits_plen2 : (s.clearBits).plen2 = s.plen2 := rfl
@[simp] theorem State.clearBits_plen3 : (s.clearBits).plen3 = s.plen3 := rfl
@[simp] theorem State.clearBits_mem : (s.clearBits).mem = s.mem := rfl
@[simp] theorem State.clearBits_bb : (s.clearBits).bb = [] := rfl
@[simp] theorem State.clearBits_gridState : (s.clearBits).gridState = s.gridState := rfl
@[simp] theorem State.clearBits_grid : (s.clearBits).grid = s.grid := rfl
@[simp] theorem State.clearBits_rst : (s.clearBits).rst = s.rst := rfl
@[simp] theorem State.clearBits_bus : (s.clearBits).bus = s.bus := rfl
@[simp] theorem State.clearBits_resp : (s.clearBits).resp = s.resp := rfl
@[simp] theorem State.clearBits_latency : (s.clearBits).latency = s.latency := rfl
@[simp] theorem State.clearBits_draws : (s.clearBits).draws = s.draws := rfl

/-! ## appendBits -/

@[simp] theorem State.appendBits_ie (b : List Bool) : (s.appendBits b).ie = s.ie := rfl
@[simp] theorem State.appendBits_seq (b : List Bool) : (s.appendBits b).seq = s.seq := rfl
@[simp] theorem State.appendBits_done (b : List Bool) : (s.appendBits b).done = s.done := rfl
@[simp] theorem State.appendBits_overrun (b : List Bool) : (s.appendBits b).overrun = s.overrun := rfl
@[simp] theorem State.appendBits_err (b : List Bool) : (s.appendBits b).err = s.err := rfl
@[simp] theorem State.appendBits_arg0 (b : List Bool) : (s.appendBits b).arg0 = s.arg0 := rfl
@[simp] theorem State.appendBits_arg1 (b : List Bool) : (s.appendBits b).arg1 = s.arg1 := rfl
@[simp] theorem State.appendBits_arg2 (b : List Bool) : (s.appendBits b).arg2 = s.arg2 := rfl
@[simp] theorem State.appendBits_res0 (b : List Bool) : (s.appendBits b).res0 = s.res0 := rfl
@[simp] theorem State.appendBits_res1 (b : List Bool) : (s.appendBits b).res1 = s.res1 := rfl
@[simp] theorem State.appendBits_cfgEcl (b : List Bool) : (s.appendBits b).cfgEcl = s.cfgEcl := rfl
@[simp] theorem State.appendBits_cfgVersion (b : List Bool) : (s.appendBits b).cfgVersion = s.cfgVersion := rfl
@[simp] theorem State.appendBits_segCount (b : List Bool) : (s.appendBits b).segCount = s.segCount := rfl
@[simp] theorem State.appendBits_moduleCount (b : List Bool) : (s.appendBits b).moduleCount = s.moduleCount := rfl
@[simp] theorem State.appendBits_symVersion (b : List Bool) : (s.appendBits b).symVersion = s.symVersion := rfl
@[simp] theorem State.appendBits_symMask (b : List Bool) : (s.appendBits b).symMask = s.symMask := rfl
@[simp] theorem State.appendBits_symEcl (b : List Bool) : (s.appendBits b).symEcl = s.symEcl := rfl
@[simp] theorem State.appendBits_cwLen (b : List Bool) : (s.appendBits b).cwLen = s.cwLen := rfl
@[simp] theorem State.appendBits_plen0 (b : List Bool) : (s.appendBits b).plen0 = s.plen0 := rfl
@[simp] theorem State.appendBits_plen1 (b : List Bool) : (s.appendBits b).plen1 = s.plen1 := rfl
@[simp] theorem State.appendBits_plen2 (b : List Bool) : (s.appendBits b).plen2 = s.plen2 := rfl
@[simp] theorem State.appendBits_plen3 (b : List Bool) : (s.appendBits b).plen3 = s.plen3 := rfl
@[simp] theorem State.appendBits_mem (b : List Bool) : (s.appendBits b).mem = s.mem := rfl
@[simp] theorem State.appendBits_bb (b : List Bool) : (s.appendBits b).bb = s.bb ++ b := rfl
@[simp] theorem State.appendBits_gridState (b : List Bool) : (s.appendBits b).gridState = s.gridState := rfl
@[simp] theorem State.appendBits_grid (b : List Bool) : (s.appendBits b).grid = s.grid := rfl
@[simp] theorem State.appendBits_rst (b : List Bool) : (s.appendBits b).rst = s.rst := rfl
@[simp] theorem State.appendBits_bus (b : List Bool) : (s.appendBits b).bus = s.bus := rfl
@[simp] theorem State.appendBits_resp (b : List Bool) : (s.appendBits b).resp = s.resp := rfl
@[simp] theorem State.appendBits_latency (b : List Bool) : (s.appendBits b).latency = s.latency := rfl
@[simp] theorem State.appendBits_draws (b : List Bool) : (s.appendBits b).draws = s.draws := rfl

/-! ## setGrid -/

@[simp] theorem State.setGrid_ie (g : Grid) (st : GridState) (v m : Nat) (eb : BitVec 2) : (s.setGrid g st v m eb).ie = s.ie := rfl
@[simp] theorem State.setGrid_seq (g : Grid) (st : GridState) (v m : Nat) (eb : BitVec 2) : (s.setGrid g st v m eb).seq = s.seq := rfl
@[simp] theorem State.setGrid_done (g : Grid) (st : GridState) (v m : Nat) (eb : BitVec 2) : (s.setGrid g st v m eb).done = s.done := rfl
@[simp] theorem State.setGrid_overrun (g : Grid) (st : GridState) (v m : Nat) (eb : BitVec 2) : (s.setGrid g st v m eb).overrun = s.overrun := rfl
@[simp] theorem State.setGrid_err (g : Grid) (st : GridState) (v m : Nat) (eb : BitVec 2) : (s.setGrid g st v m eb).err = s.err := rfl
@[simp] theorem State.setGrid_arg0 (g : Grid) (st : GridState) (v m : Nat) (eb : BitVec 2) : (s.setGrid g st v m eb).arg0 = s.arg0 := rfl
@[simp] theorem State.setGrid_arg1 (g : Grid) (st : GridState) (v m : Nat) (eb : BitVec 2) : (s.setGrid g st v m eb).arg1 = s.arg1 := rfl
@[simp] theorem State.setGrid_arg2 (g : Grid) (st : GridState) (v m : Nat) (eb : BitVec 2) : (s.setGrid g st v m eb).arg2 = s.arg2 := rfl
@[simp] theorem State.setGrid_res0 (g : Grid) (st : GridState) (v m : Nat) (eb : BitVec 2) : (s.setGrid g st v m eb).res0 = s.res0 := rfl
@[simp] theorem State.setGrid_res1 (g : Grid) (st : GridState) (v m : Nat) (eb : BitVec 2) : (s.setGrid g st v m eb).res1 = s.res1 := rfl
@[simp] theorem State.setGrid_cfgEcl (g : Grid) (st : GridState) (v m : Nat) (eb : BitVec 2) : (s.setGrid g st v m eb).cfgEcl = s.cfgEcl := rfl
@[simp] theorem State.setGrid_cfgVersion (g : Grid) (st : GridState) (v m : Nat) (eb : BitVec 2) : (s.setGrid g st v m eb).cfgVersion = s.cfgVersion := rfl
@[simp] theorem State.setGrid_segCount (g : Grid) (st : GridState) (v m : Nat) (eb : BitVec 2) : (s.setGrid g st v m eb).segCount = s.segCount := rfl
@[simp] theorem State.setGrid_moduleCount (g : Grid) (st : GridState) (v m : Nat) (eb : BitVec 2) : (s.setGrid g st v m eb).moduleCount = BitVec.ofNat 8 (4 * v + 17) := rfl
@[simp] theorem State.setGrid_symVersion (g : Grid) (st : GridState) (v m : Nat) (eb : BitVec 2) : (s.setGrid g st v m eb).symVersion = BitVec.ofNat 6 v := rfl
@[simp] theorem State.setGrid_symMask (g : Grid) (st : GridState) (v m : Nat) (eb : BitVec 2) : (s.setGrid g st v m eb).symMask = BitVec.ofNat 3 m := rfl
@[simp] theorem State.setGrid_symEcl (g : Grid) (st : GridState) (v m : Nat) (eb : BitVec 2) : (s.setGrid g st v m eb).symEcl = eb := rfl
@[simp] theorem State.setGrid_cwLen (g : Grid) (st : GridState) (v m : Nat) (eb : BitVec 2) : (s.setGrid g st v m eb).cwLen = s.cwLen := rfl
@[simp] theorem State.setGrid_plen0 (g : Grid) (st : GridState) (v m : Nat) (eb : BitVec 2) : (s.setGrid g st v m eb).plen0 = s.plen0 := rfl
@[simp] theorem State.setGrid_plen1 (g : Grid) (st : GridState) (v m : Nat) (eb : BitVec 2) : (s.setGrid g st v m eb).plen1 = s.plen1 := rfl
@[simp] theorem State.setGrid_plen2 (g : Grid) (st : GridState) (v m : Nat) (eb : BitVec 2) : (s.setGrid g st v m eb).plen2 = s.plen2 := rfl
@[simp] theorem State.setGrid_plen3 (g : Grid) (st : GridState) (v m : Nat) (eb : BitVec 2) : (s.setGrid g st v m eb).plen3 = s.plen3 := rfl
@[simp] theorem State.setGrid_mem (g : Grid) (st : GridState) (v m : Nat) (eb : BitVec 2) : (s.setGrid g st v m eb).mem = s.mem := rfl
@[simp] theorem State.setGrid_bb (g : Grid) (st : GridState) (v m : Nat) (eb : BitVec 2) : (s.setGrid g st v m eb).bb = s.bb := rfl
@[simp] theorem State.setGrid_gridState (g : Grid) (st : GridState) (v m : Nat) (eb : BitVec 2) : (s.setGrid g st v m eb).gridState = st := rfl
@[simp] theorem State.setGrid_grid (g : Grid) (st : GridState) (v m : Nat) (eb : BitVec 2) : (s.setGrid g st v m eb).grid = g := rfl
@[simp] theorem State.setGrid_rst (g : Grid) (st : GridState) (v m : Nat) (eb : BitVec 2) : (s.setGrid g st v m eb).rst = s.rst := rfl
@[simp] theorem State.setGrid_bus (g : Grid) (st : GridState) (v m : Nat) (eb : BitVec 2) : (s.setGrid g st v m eb).bus = s.bus := rfl
@[simp] theorem State.setGrid_resp (g : Grid) (st : GridState) (v m : Nat) (eb : BitVec 2) : (s.setGrid g st v m eb).resp = s.resp := rfl
@[simp] theorem State.setGrid_latency (g : Grid) (st : GridState) (v m : Nat) (eb : BitVec 2) : (s.setGrid g st v m eb).latency = s.latency := rfl
@[simp] theorem State.setGrid_draws (g : Grid) (st : GridState) (v m : Nat) (eb : BitVec 2) : (s.setGrid g st v m eb).draws = s.draws := rfl

/-! ## dropGrid -/

@[simp] theorem State.dropGrid_ie : (s.dropGrid).ie = s.ie := rfl
@[simp] theorem State.dropGrid_seq : (s.dropGrid).seq = s.seq := rfl
@[simp] theorem State.dropGrid_done : (s.dropGrid).done = s.done := rfl
@[simp] theorem State.dropGrid_overrun : (s.dropGrid).overrun = s.overrun := rfl
@[simp] theorem State.dropGrid_err : (s.dropGrid).err = s.err := rfl
@[simp] theorem State.dropGrid_arg0 : (s.dropGrid).arg0 = s.arg0 := rfl
@[simp] theorem State.dropGrid_arg1 : (s.dropGrid).arg1 = s.arg1 := rfl
@[simp] theorem State.dropGrid_arg2 : (s.dropGrid).arg2 = s.arg2 := rfl
@[simp] theorem State.dropGrid_res0 : (s.dropGrid).res0 = s.res0 := rfl
@[simp] theorem State.dropGrid_res1 : (s.dropGrid).res1 = s.res1 := rfl
@[simp] theorem State.dropGrid_cfgEcl : (s.dropGrid).cfgEcl = s.cfgEcl := rfl
@[simp] theorem State.dropGrid_cfgVersion : (s.dropGrid).cfgVersion = s.cfgVersion := rfl
@[simp] theorem State.dropGrid_segCount : (s.dropGrid).segCount = s.segCount := rfl
@[simp] theorem State.dropGrid_moduleCount : (s.dropGrid).moduleCount = 0#8 := rfl
@[simp] theorem State.dropGrid_symVersion : (s.dropGrid).symVersion = 0#6 := rfl
@[simp] theorem State.dropGrid_symMask : (s.dropGrid).symMask = 0#3 := rfl
@[simp] theorem State.dropGrid_symEcl : (s.dropGrid).symEcl = 0#2 := rfl
@[simp] theorem State.dropGrid_cwLen : (s.dropGrid).cwLen = s.cwLen := rfl
@[simp] theorem State.dropGrid_plen0 : (s.dropGrid).plen0 = s.plen0 := rfl
@[simp] theorem State.dropGrid_plen1 : (s.dropGrid).plen1 = s.plen1 := rfl
@[simp] theorem State.dropGrid_plen2 : (s.dropGrid).plen2 = s.plen2 := rfl
@[simp] theorem State.dropGrid_plen3 : (s.dropGrid).plen3 = s.plen3 := rfl
@[simp] theorem State.dropGrid_mem : (s.dropGrid).mem = s.mem := rfl
@[simp] theorem State.dropGrid_bb : (s.dropGrid).bb = s.bb := rfl
@[simp] theorem State.dropGrid_gridState : (s.dropGrid).gridState = .empty := rfl
@[simp] theorem State.dropGrid_grid : (s.dropGrid).grid = [] := rfl
@[simp] theorem State.dropGrid_rst : (s.dropGrid).rst = s.rst := rfl
@[simp] theorem State.dropGrid_bus : (s.dropGrid).bus = s.bus := rfl
@[simp] theorem State.dropGrid_resp : (s.dropGrid).resp = s.resp := rfl
@[simp] theorem State.dropGrid_latency : (s.dropGrid).latency = s.latency := rfl
@[simp] theorem State.dropGrid_draws : (s.dropGrid).draws = s.draws := rfl

/-! ## capture -/

@[simp] theorem State.capture_ie (w : Word) (n : Nat) : (s.capture w n).ie = s.ie := rfl
@[simp] theorem State.capture_seq (w : Word) (n : Nat) : (s.capture w n).seq = .busy w n := rfl
@[simp] theorem State.capture_done (w : Word) (n : Nat) : (s.capture w n).done = false := rfl
@[simp] theorem State.capture_overrun (w : Word) (n : Nat) : (s.capture w n).overrun = s.overrun := rfl
@[simp] theorem State.capture_err (w : Word) (n : Nat) : (s.capture w n).err = .none := rfl
@[simp] theorem State.capture_arg0 (w : Word) (n : Nat) : (s.capture w n).arg0 = s.arg0 := rfl
@[simp] theorem State.capture_arg1 (w : Word) (n : Nat) : (s.capture w n).arg1 = s.arg1 := rfl
@[simp] theorem State.capture_arg2 (w : Word) (n : Nat) : (s.capture w n).arg2 = s.arg2 := rfl
@[simp] theorem State.capture_res0 (w : Word) (n : Nat) : (s.capture w n).res0 = s.res0 := rfl
@[simp] theorem State.capture_res1 (w : Word) (n : Nat) : (s.capture w n).res1 = s.res1 := rfl
@[simp] theorem State.capture_cfgEcl (w : Word) (n : Nat) : (s.capture w n).cfgEcl = s.cfgEcl := rfl
@[simp] theorem State.capture_cfgVersion (w : Word) (n : Nat) : (s.capture w n).cfgVersion = s.cfgVersion := rfl
@[simp] theorem State.capture_segCount (w : Word) (n : Nat) : (s.capture w n).segCount = s.segCount := rfl
@[simp] theorem State.capture_moduleCount (w : Word) (n : Nat) : (s.capture w n).moduleCount = s.moduleCount := rfl
@[simp] theorem State.capture_symVersion (w : Word) (n : Nat) : (s.capture w n).symVersion = s.symVersion := rfl
@[simp] theorem State.capture_symMask (w : Word) (n : Nat) : (s.capture w n).symMask = s.symMask := rfl
@[simp] theorem State.capture_symEcl (w : Word) (n : Nat) : (s.capture w n).symEcl = s.symEcl := rfl
@[simp] theorem State.capture_cwLen (w : Word) (n : Nat) : (s.capture w n).cwLen = s.cwLen := rfl
@[simp] theorem State.capture_plen0 (w : Word) (n : Nat) : (s.capture w n).plen0 = s.plen0 := rfl
@[simp] theorem State.capture_plen1 (w : Word) (n : Nat) : (s.capture w n).plen1 = s.plen1 := rfl
@[simp] theorem State.capture_plen2 (w : Word) (n : Nat) : (s.capture w n).plen2 = s.plen2 := rfl
@[simp] theorem State.capture_plen3 (w : Word) (n : Nat) : (s.capture w n).plen3 = s.plen3 := rfl
@[simp] theorem State.capture_mem (w : Word) (n : Nat) : (s.capture w n).mem = s.mem := rfl
@[simp] theorem State.capture_bb (w : Word) (n : Nat) : (s.capture w n).bb = s.bb := rfl
@[simp] theorem State.capture_gridState (w : Word) (n : Nat) : (s.capture w n).gridState = s.gridState := rfl
@[simp] theorem State.capture_grid (w : Word) (n : Nat) : (s.capture w n).grid = s.grid := rfl
@[simp] theorem State.capture_rst (w : Word) (n : Nat) : (s.capture w n).rst = s.rst := rfl
@[simp] theorem State.capture_bus (w : Word) (n : Nat) : (s.capture w n).bus = s.bus := rfl
@[simp] theorem State.capture_resp (w : Word) (n : Nat) : (s.capture w n).resp = s.resp := rfl
@[simp] theorem State.capture_latency (w : Word) (n : Nat) : (s.capture w n).latency = s.latency := rfl
@[simp] theorem State.capture_draws (w : Word) (n : Nat) : (s.capture w n).draws = s.draws := rfl

/-! ## accept -/

@[simp] theorem State.accept_ie (w : Word) : (s.accept w).ie = s.ie := rfl
@[simp] theorem State.accept_seq (w : Word) : (s.accept w).seq = .busy w (s.latency.headD 0) := rfl
@[simp] theorem State.accept_done (w : Word) : (s.accept w).done = false := rfl
@[simp] theorem State.accept_overrun (w : Word) : (s.accept w).overrun = s.overrun := rfl
@[simp] theorem State.accept_err (w : Word) : (s.accept w).err = .none := rfl
@[simp] theorem State.accept_arg0 (w : Word) : (s.accept w).arg0 = s.arg0 := rfl
@[simp] theorem State.accept_arg1 (w : Word) : (s.accept w).arg1 = s.arg1 := rfl
@[simp] theorem State.accept_arg2 (w : Word) : (s.accept w).arg2 = s.arg2 := rfl
@[simp] theorem State.accept_res0 (w : Word) : (s.accept w).res0 = s.res0 := rfl
@[simp] theorem State.accept_res1 (w : Word) : (s.accept w).res1 = s.res1 := rfl
@[simp] theorem State.accept_cfgEcl (w : Word) : (s.accept w).cfgEcl = s.cfgEcl := rfl
@[simp] theorem State.accept_cfgVersion (w : Word) : (s.accept w).cfgVersion = s.cfgVersion := rfl
@[simp] theorem State.accept_segCount (w : Word) : (s.accept w).segCount = s.segCount := rfl
@[simp] theorem State.accept_moduleCount (w : Word) : (s.accept w).moduleCount = s.moduleCount := rfl
@[simp] theorem State.accept_symVersion (w : Word) : (s.accept w).symVersion = s.symVersion := rfl
@[simp] theorem State.accept_symMask (w : Word) : (s.accept w).symMask = s.symMask := rfl
@[simp] theorem State.accept_symEcl (w : Word) : (s.accept w).symEcl = s.symEcl := rfl
@[simp] theorem State.accept_cwLen (w : Word) : (s.accept w).cwLen = s.cwLen := rfl
@[simp] theorem State.accept_plen0 (w : Word) : (s.accept w).plen0 = s.plen0 := rfl
@[simp] theorem State.accept_plen1 (w : Word) : (s.accept w).plen1 = s.plen1 := rfl
@[simp] theorem State.accept_plen2 (w : Word) : (s.accept w).plen2 = s.plen2 := rfl
@[simp] theorem State.accept_plen3 (w : Word) : (s.accept w).plen3 = s.plen3 := rfl
@[simp] theorem State.accept_mem (w : Word) : (s.accept w).mem = s.mem := rfl
@[simp] theorem State.accept_bb (w : Word) : (s.accept w).bb = s.bb := rfl
@[simp] theorem State.accept_gridState (w : Word) : (s.accept w).gridState = s.gridState := rfl
@[simp] theorem State.accept_grid (w : Word) : (s.accept w).grid = s.grid := rfl
@[simp] theorem State.accept_rst (w : Word) : (s.accept w).rst = s.rst := rfl
@[simp] theorem State.accept_bus (w : Word) : (s.accept w).bus = s.bus := rfl
@[simp] theorem State.accept_resp (w : Word) : (s.accept w).resp = s.resp := rfl
@[simp] theorem State.accept_latency (w : Word) : (s.accept w).latency = s.latency.tail := rfl
@[simp] theorem State.accept_draws (w : Word) : (s.accept w).draws = s.draws := rfl

/-! ## complete -/

@[simp] theorem State.complete_ie (e : ErrCode) : (s.complete e).ie = s.ie := rfl
@[simp] theorem State.complete_seq (e : ErrCode) : (s.complete e).seq = .idle := rfl
@[simp] theorem State.complete_done (e : ErrCode) : (s.complete e).done = true := rfl
@[simp] theorem State.complete_overrun (e : ErrCode) : (s.complete e).overrun = s.overrun := rfl
@[simp] theorem State.complete_err (e : ErrCode) : (s.complete e).err = e := rfl
@[simp] theorem State.complete_arg0 (e : ErrCode) : (s.complete e).arg0 = s.arg0 := rfl
@[simp] theorem State.complete_arg1 (e : ErrCode) : (s.complete e).arg1 = s.arg1 := rfl
@[simp] theorem State.complete_arg2 (e : ErrCode) : (s.complete e).arg2 = s.arg2 := rfl
@[simp] theorem State.complete_res0 (e : ErrCode) : (s.complete e).res0 = s.res0 := rfl
@[simp] theorem State.complete_res1 (e : ErrCode) : (s.complete e).res1 = s.res1 := rfl
@[simp] theorem State.complete_cfgEcl (e : ErrCode) : (s.complete e).cfgEcl = s.cfgEcl := rfl
@[simp] theorem State.complete_cfgVersion (e : ErrCode) : (s.complete e).cfgVersion = s.cfgVersion := rfl
@[simp] theorem State.complete_segCount (e : ErrCode) : (s.complete e).segCount = s.segCount := rfl
@[simp] theorem State.complete_moduleCount (e : ErrCode) : (s.complete e).moduleCount = s.moduleCount := rfl
@[simp] theorem State.complete_symVersion (e : ErrCode) : (s.complete e).symVersion = s.symVersion := rfl
@[simp] theorem State.complete_symMask (e : ErrCode) : (s.complete e).symMask = s.symMask := rfl
@[simp] theorem State.complete_symEcl (e : ErrCode) : (s.complete e).symEcl = s.symEcl := rfl
@[simp] theorem State.complete_cwLen (e : ErrCode) : (s.complete e).cwLen = s.cwLen := rfl
@[simp] theorem State.complete_plen0 (e : ErrCode) : (s.complete e).plen0 = s.plen0 := rfl
@[simp] theorem State.complete_plen1 (e : ErrCode) : (s.complete e).plen1 = s.plen1 := rfl
@[simp] theorem State.complete_plen2 (e : ErrCode) : (s.complete e).plen2 = s.plen2 := rfl
@[simp] theorem State.complete_plen3 (e : ErrCode) : (s.complete e).plen3 = s.plen3 := rfl
@[simp] theorem State.complete_mem (e : ErrCode) : (s.complete e).mem = s.mem := rfl
@[simp] theorem State.complete_bb (e : ErrCode) : (s.complete e).bb = s.bb := rfl
@[simp] theorem State.complete_gridState (e : ErrCode) : (s.complete e).gridState = s.gridState := rfl
@[simp] theorem State.complete_grid (e : ErrCode) : (s.complete e).grid = s.grid := rfl
@[simp] theorem State.complete_rst (e : ErrCode) : (s.complete e).rst = s.rst := rfl
@[simp] theorem State.complete_bus (e : ErrCode) : (s.complete e).bus = s.bus := rfl
@[simp] theorem State.complete_resp (e : ErrCode) : (s.complete e).resp = s.resp := rfl
@[simp] theorem State.complete_latency (e : ErrCode) : (s.complete e).latency = s.latency := rfl
@[simp] theorem State.complete_draws (e : ErrCode) : (s.complete e).draws = s.draws := rfl

/-! ## resetRegisters -/

@[simp] theorem State.resetRegisters_ie : (s.resetRegisters).ie = false := rfl
@[simp] theorem State.resetRegisters_seq : (s.resetRegisters).seq = .idle := rfl
@[simp] theorem State.resetRegisters_done : (s.resetRegisters).done = false := rfl
@[simp] theorem State.resetRegisters_overrun : (s.resetRegisters).overrun = false := rfl
@[simp] theorem State.resetRegisters_err : (s.resetRegisters).err = .none := rfl
@[simp] theorem State.resetRegisters_arg0 : (s.resetRegisters).arg0 = 0#32 := rfl
@[simp] theorem State.resetRegisters_arg1 : (s.resetRegisters).arg1 = 0#32 := rfl
@[simp] theorem State.resetRegisters_arg2 : (s.resetRegisters).arg2 = 0#32 := rfl
@[simp] theorem State.resetRegisters_res0 : (s.resetRegisters).res0 = 0#32 := rfl
@[simp] theorem State.resetRegisters_res1 : (s.resetRegisters).res1 = 0#32 := rfl
@[simp] theorem State.resetRegisters_cfgEcl : (s.resetRegisters).cfgEcl = 0#2 := rfl
@[simp] theorem State.resetRegisters_cfgVersion : (s.resetRegisters).cfgVersion = 0#6 := rfl
@[simp] theorem State.resetRegisters_segCount : (s.resetRegisters).segCount = 0#7 := rfl
@[simp] theorem State.resetRegisters_moduleCount : (s.resetRegisters).moduleCount = 0#8 := rfl
@[simp] theorem State.resetRegisters_symVersion : (s.resetRegisters).symVersion = 0#6 := rfl
@[simp] theorem State.resetRegisters_symMask : (s.resetRegisters).symMask = 0#3 := rfl
@[simp] theorem State.resetRegisters_symEcl : (s.resetRegisters).symEcl = 0#2 := rfl
@[simp] theorem State.resetRegisters_cwLen : (s.resetRegisters).cwLen = 0#12 := rfl
@[simp] theorem State.resetRegisters_plen0 : (s.resetRegisters).plen0 = 1#9 := rfl
@[simp] theorem State.resetRegisters_plen1 : (s.resetRegisters).plen1 = 1#9 := rfl
@[simp] theorem State.resetRegisters_plen2 : (s.resetRegisters).plen2 = 1#9 := rfl
@[simp] theorem State.resetRegisters_plen3 : (s.resetRegisters).plen3 = 1#9 := rfl
@[simp] theorem State.resetRegisters_mem : (s.resetRegisters).mem = s.mem := rfl
@[simp] theorem State.resetRegisters_bb : (s.resetRegisters).bb = [] := rfl
@[simp] theorem State.resetRegisters_gridState : (s.resetRegisters).gridState = .empty := rfl
@[simp] theorem State.resetRegisters_grid : (s.resetRegisters).grid = [] := rfl
@[simp] theorem State.resetRegisters_rst : (s.resetRegisters).rst = s.rst := rfl
@[simp] theorem State.resetRegisters_bus : (s.resetRegisters).bus = s.bus := rfl
@[simp] theorem State.resetRegisters_resp : (s.resetRegisters).resp = s.resp := rfl
@[simp] theorem State.resetRegisters_latency : (s.resetRegisters).latency = s.latency := rfl
@[simp] theorem State.resetRegisters_draws : (s.resetRegisters).draws = s.draws := rfl

/-! ## hardReset -/

@[simp] theorem State.hardReset_ie (c : List Host.Cell) : (s.hardReset c).ie = false := rfl
@[simp] theorem State.hardReset_seq (c : List Host.Cell) : (s.hardReset c).seq = .idle := rfl
@[simp] theorem State.hardReset_done (c : List Host.Cell) : (s.hardReset c).done = false := rfl
@[simp] theorem State.hardReset_overrun (c : List Host.Cell) : (s.hardReset c).overrun = false := rfl
@[simp] theorem State.hardReset_err (c : List Host.Cell) : (s.hardReset c).err = .none := rfl
@[simp] theorem State.hardReset_arg0 (c : List Host.Cell) : (s.hardReset c).arg0 = 0#32 := rfl
@[simp] theorem State.hardReset_arg1 (c : List Host.Cell) : (s.hardReset c).arg1 = 0#32 := rfl
@[simp] theorem State.hardReset_arg2 (c : List Host.Cell) : (s.hardReset c).arg2 = 0#32 := rfl
@[simp] theorem State.hardReset_res0 (c : List Host.Cell) : (s.hardReset c).res0 = 0#32 := rfl
@[simp] theorem State.hardReset_res1 (c : List Host.Cell) : (s.hardReset c).res1 = 0#32 := rfl
@[simp] theorem State.hardReset_cfgEcl (c : List Host.Cell) : (s.hardReset c).cfgEcl = 0#2 := rfl
@[simp] theorem State.hardReset_cfgVersion (c : List Host.Cell) : (s.hardReset c).cfgVersion = 0#6 := rfl
@[simp] theorem State.hardReset_segCount (c : List Host.Cell) : (s.hardReset c).segCount = 0#7 := rfl
@[simp] theorem State.hardReset_moduleCount (c : List Host.Cell) : (s.hardReset c).moduleCount = 0#8 := rfl
@[simp] theorem State.hardReset_symVersion (c : List Host.Cell) : (s.hardReset c).symVersion = 0#6 := rfl
@[simp] theorem State.hardReset_symMask (c : List Host.Cell) : (s.hardReset c).symMask = 0#3 := rfl
@[simp] theorem State.hardReset_symEcl (c : List Host.Cell) : (s.hardReset c).symEcl = 0#2 := rfl
@[simp] theorem State.hardReset_cwLen (c : List Host.Cell) : (s.hardReset c).cwLen = 0#12 := rfl
@[simp] theorem State.hardReset_plen0 (c : List Host.Cell) : (s.hardReset c).plen0 = 1#9 := rfl
@[simp] theorem State.hardReset_plen1 (c : List Host.Cell) : (s.hardReset c).plen1 = 1#9 := rfl
@[simp] theorem State.hardReset_plen2 (c : List Host.Cell) : (s.hardReset c).plen2 = 1#9 := rfl
@[simp] theorem State.hardReset_plen3 (c : List Host.Cell) : (s.hardReset c).plen3 = 1#9 := rfl
@[simp] theorem State.hardReset_mem (c : List Host.Cell) : (s.hardReset c).mem = Memory.ofCells c := rfl
@[simp] theorem State.hardReset_bb (c : List Host.Cell) : (s.hardReset c).bb = [] := rfl
@[simp] theorem State.hardReset_gridState (c : List Host.Cell) : (s.hardReset c).gridState = .empty := rfl
@[simp] theorem State.hardReset_grid (c : List Host.Cell) : (s.hardReset c).grid = [] := rfl
@[simp] theorem State.hardReset_rst (c : List Host.Cell) : (s.hardReset c).rst = s.rst := rfl
@[simp] theorem State.hardReset_bus (c : List Host.Cell) : (s.hardReset c).bus = s.bus := rfl
@[simp] theorem State.hardReset_resp (c : List Host.Cell) : (s.hardReset c).resp = s.resp := rfl
@[simp] theorem State.hardReset_latency (c : List Host.Cell) : (s.hardReset c).latency = s.latency := rfl
@[simp] theorem State.hardReset_draws (c : List Host.Cell) : (s.hardReset c).draws = s.draws := rfl

/-! ## setRst -/

@[simp] theorem State.setRst_ie (b : Bool) : (s.setRst b).ie = s.ie := rfl
@[simp] theorem State.setRst_seq (b : Bool) : (s.setRst b).seq = s.seq := rfl
@[simp] theorem State.setRst_done (b : Bool) : (s.setRst b).done = s.done := rfl
@[simp] theorem State.setRst_overrun (b : Bool) : (s.setRst b).overrun = s.overrun := rfl
@[simp] theorem State.setRst_err (b : Bool) : (s.setRst b).err = s.err := rfl
@[simp] theorem State.setRst_arg0 (b : Bool) : (s.setRst b).arg0 = s.arg0 := rfl
@[simp] theorem State.setRst_arg1 (b : Bool) : (s.setRst b).arg1 = s.arg1 := rfl
@[simp] theorem State.setRst_arg2 (b : Bool) : (s.setRst b).arg2 = s.arg2 := rfl
@[simp] theorem State.setRst_res0 (b : Bool) : (s.setRst b).res0 = s.res0 := rfl
@[simp] theorem State.setRst_res1 (b : Bool) : (s.setRst b).res1 = s.res1 := rfl
@[simp] theorem State.setRst_cfgEcl (b : Bool) : (s.setRst b).cfgEcl = s.cfgEcl := rfl
@[simp] theorem State.setRst_cfgVersion (b : Bool) : (s.setRst b).cfgVersion = s.cfgVersion := rfl
@[simp] theorem State.setRst_segCount (b : Bool) : (s.setRst b).segCount = s.segCount := rfl
@[simp] theorem State.setRst_moduleCount (b : Bool) : (s.setRst b).moduleCount = s.moduleCount := rfl
@[simp] theorem State.setRst_symVersion (b : Bool) : (s.setRst b).symVersion = s.symVersion := rfl
@[simp] theorem State.setRst_symMask (b : Bool) : (s.setRst b).symMask = s.symMask := rfl
@[simp] theorem State.setRst_symEcl (b : Bool) : (s.setRst b).symEcl = s.symEcl := rfl
@[simp] theorem State.setRst_cwLen (b : Bool) : (s.setRst b).cwLen = s.cwLen := rfl
@[simp] theorem State.setRst_plen0 (b : Bool) : (s.setRst b).plen0 = s.plen0 := rfl
@[simp] theorem State.setRst_plen1 (b : Bool) : (s.setRst b).plen1 = s.plen1 := rfl
@[simp] theorem State.setRst_plen2 (b : Bool) : (s.setRst b).plen2 = s.plen2 := rfl
@[simp] theorem State.setRst_plen3 (b : Bool) : (s.setRst b).plen3 = s.plen3 := rfl
@[simp] theorem State.setRst_mem (b : Bool) : (s.setRst b).mem = s.mem := rfl
@[simp] theorem State.setRst_bb (b : Bool) : (s.setRst b).bb = s.bb := rfl
@[simp] theorem State.setRst_gridState (b : Bool) : (s.setRst b).gridState = s.gridState := rfl
@[simp] theorem State.setRst_grid (b : Bool) : (s.setRst b).grid = s.grid := rfl
@[simp] theorem State.setRst_rst (b : Bool) : (s.setRst b).rst = b := rfl
@[simp] theorem State.setRst_bus (b : Bool) : (s.setRst b).bus = s.bus := rfl
@[simp] theorem State.setRst_resp (b : Bool) : (s.setRst b).resp = s.resp := rfl
@[simp] theorem State.setRst_latency (b : Bool) : (s.setRst b).latency = s.latency := rfl
@[simp] theorem State.setRst_draws (b : Bool) : (s.setRst b).draws = s.draws := rfl

/-! ## clearFlags -/

@[simp] theorem State.clearFlags_ie (v : Word) : (s.clearFlags v).ie = s.ie := rfl
@[simp] theorem State.clearFlags_seq (v : Word) : (s.clearFlags v).seq = s.seq := rfl
@[simp] theorem State.clearFlags_done (v : Word) : (s.clearFlags v).done = (s.done && !v.getLsbD 1) := rfl
@[simp] theorem State.clearFlags_overrun (v : Word) : (s.clearFlags v).overrun = (s.overrun && !v.getLsbD 2) := rfl
@[simp] theorem State.clearFlags_err (v : Word) : (s.clearFlags v).err = s.err := rfl
@[simp] theorem State.clearFlags_arg0 (v : Word) : (s.clearFlags v).arg0 = s.arg0 := rfl
@[simp] theorem State.clearFlags_arg1 (v : Word) : (s.clearFlags v).arg1 = s.arg1 := rfl
@[simp] theorem State.clearFlags_arg2 (v : Word) : (s.clearFlags v).arg2 = s.arg2 := rfl
@[simp] theorem State.clearFlags_res0 (v : Word) : (s.clearFlags v).res0 = s.res0 := rfl
@[simp] theorem State.clearFlags_res1 (v : Word) : (s.clearFlags v).res1 = s.res1 := rfl
@[simp] theorem State.clearFlags_cfgEcl (v : Word) : (s.clearFlags v).cfgEcl = s.cfgEcl := rfl
@[simp] theorem State.clearFlags_cfgVersion (v : Word) : (s.clearFlags v).cfgVersion = s.cfgVersion := rfl
@[simp] theorem State.clearFlags_segCount (v : Word) : (s.clearFlags v).segCount = s.segCount := rfl
@[simp] theorem State.clearFlags_moduleCount (v : Word) : (s.clearFlags v).moduleCount = s.moduleCount := rfl
@[simp] theorem State.clearFlags_symVersion (v : Word) : (s.clearFlags v).symVersion = s.symVersion := rfl
@[simp] theorem State.clearFlags_symMask (v : Word) : (s.clearFlags v).symMask = s.symMask := rfl
@[simp] theorem State.clearFlags_symEcl (v : Word) : (s.clearFlags v).symEcl = s.symEcl := rfl
@[simp] theorem State.clearFlags_cwLen (v : Word) : (s.clearFlags v).cwLen = s.cwLen := rfl
@[simp] theorem State.clearFlags_plen0 (v : Word) : (s.clearFlags v).plen0 = s.plen0 := rfl
@[simp] theorem State.clearFlags_plen1 (v : Word) : (s.clearFlags v).plen1 = s.plen1 := rfl
@[simp] theorem State.clearFlags_plen2 (v : Word) : (s.clearFlags v).plen2 = s.plen2 := rfl
@[simp] theorem State.clearFlags_plen3 (v : Word) : (s.clearFlags v).plen3 = s.plen3 := rfl
@[simp] theorem State.clearFlags_mem (v : Word) : (s.clearFlags v).mem = s.mem := rfl
@[simp] theorem State.clearFlags_bb (v : Word) : (s.clearFlags v).bb = s.bb := rfl
@[simp] theorem State.clearFlags_gridState (v : Word) : (s.clearFlags v).gridState = s.gridState := rfl
@[simp] theorem State.clearFlags_grid (v : Word) : (s.clearFlags v).grid = s.grid := rfl
@[simp] theorem State.clearFlags_rst (v : Word) : (s.clearFlags v).rst = s.rst := rfl
@[simp] theorem State.clearFlags_bus (v : Word) : (s.clearFlags v).bus = s.bus := rfl
@[simp] theorem State.clearFlags_resp (v : Word) : (s.clearFlags v).resp = s.resp := rfl
@[simp] theorem State.clearFlags_latency (v : Word) : (s.clearFlags v).latency = s.latency := rfl
@[simp] theorem State.clearFlags_draws (v : Word) : (s.clearFlags v).draws = s.draws := rfl

/-! ## setCtrl -/

@[simp] theorem State.setCtrl_ie (v : Word) : (s.setCtrl v).ie = v.getLsbD 0 := rfl
@[simp] theorem State.setCtrl_seq (v : Word) : (s.setCtrl v).seq = s.seq := rfl
@[simp] theorem State.setCtrl_done (v : Word) : (s.setCtrl v).done = s.done := rfl
@[simp] theorem State.setCtrl_overrun (v : Word) : (s.setCtrl v).overrun = s.overrun := rfl
@[simp] theorem State.setCtrl_err (v : Word) : (s.setCtrl v).err = s.err := rfl
@[simp] theorem State.setCtrl_arg0 (v : Word) : (s.setCtrl v).arg0 = s.arg0 := rfl
@[simp] theorem State.setCtrl_arg1 (v : Word) : (s.setCtrl v).arg1 = s.arg1 := rfl
@[simp] theorem State.setCtrl_arg2 (v : Word) : (s.setCtrl v).arg2 = s.arg2 := rfl
@[simp] theorem State.setCtrl_res0 (v : Word) : (s.setCtrl v).res0 = s.res0 := rfl
@[simp] theorem State.setCtrl_res1 (v : Word) : (s.setCtrl v).res1 = s.res1 := rfl
@[simp] theorem State.setCtrl_cfgEcl (v : Word) : (s.setCtrl v).cfgEcl = s.cfgEcl := rfl
@[simp] theorem State.setCtrl_cfgVersion (v : Word) : (s.setCtrl v).cfgVersion = s.cfgVersion := rfl
@[simp] theorem State.setCtrl_segCount (v : Word) : (s.setCtrl v).segCount = s.segCount := rfl
@[simp] theorem State.setCtrl_moduleCount (v : Word) : (s.setCtrl v).moduleCount = s.moduleCount := rfl
@[simp] theorem State.setCtrl_symVersion (v : Word) : (s.setCtrl v).symVersion = s.symVersion := rfl
@[simp] theorem State.setCtrl_symMask (v : Word) : (s.setCtrl v).symMask = s.symMask := rfl
@[simp] theorem State.setCtrl_symEcl (v : Word) : (s.setCtrl v).symEcl = s.symEcl := rfl
@[simp] theorem State.setCtrl_cwLen (v : Word) : (s.setCtrl v).cwLen = s.cwLen := rfl
@[simp] theorem State.setCtrl_plen0 (v : Word) : (s.setCtrl v).plen0 = s.plen0 := rfl
@[simp] theorem State.setCtrl_plen1 (v : Word) : (s.setCtrl v).plen1 = s.plen1 := rfl
@[simp] theorem State.setCtrl_plen2 (v : Word) : (s.setCtrl v).plen2 = s.plen2 := rfl
@[simp] theorem State.setCtrl_plen3 (v : Word) : (s.setCtrl v).plen3 = s.plen3 := rfl
@[simp] theorem State.setCtrl_mem (v : Word) : (s.setCtrl v).mem = s.mem := rfl
@[simp] theorem State.setCtrl_bb (v : Word) : (s.setCtrl v).bb = s.bb := rfl
@[simp] theorem State.setCtrl_gridState (v : Word) : (s.setCtrl v).gridState = s.gridState := rfl
@[simp] theorem State.setCtrl_grid (v : Word) : (s.setCtrl v).grid = s.grid := rfl
@[simp] theorem State.setCtrl_rst (v : Word) : (s.setCtrl v).rst = s.rst := rfl
@[simp] theorem State.setCtrl_bus (v : Word) : (s.setCtrl v).bus = s.bus := rfl
@[simp] theorem State.setCtrl_resp (v : Word) : (s.setCtrl v).resp = s.resp := rfl
@[simp] theorem State.setCtrl_latency (v : Word) : (s.setCtrl v).latency = s.latency := rfl
@[simp] theorem State.setCtrl_draws (v : Word) : (s.setCtrl v).draws = s.draws := rfl

/-! ## setOverrun -/

@[simp] theorem State.setOverrun_ie : (s.setOverrun).ie = s.ie := rfl
@[simp] theorem State.setOverrun_seq : (s.setOverrun).seq = s.seq := rfl
@[simp] theorem State.setOverrun_done : (s.setOverrun).done = s.done := rfl
@[simp] theorem State.setOverrun_overrun : (s.setOverrun).overrun = true := rfl
@[simp] theorem State.setOverrun_err : (s.setOverrun).err = s.err := rfl
@[simp] theorem State.setOverrun_arg0 : (s.setOverrun).arg0 = s.arg0 := rfl
@[simp] theorem State.setOverrun_arg1 : (s.setOverrun).arg1 = s.arg1 := rfl
@[simp] theorem State.setOverrun_arg2 : (s.setOverrun).arg2 = s.arg2 := rfl
@[simp] theorem State.setOverrun_res0 : (s.setOverrun).res0 = s.res0 := rfl
@[simp] theorem State.setOverrun_res1 : (s.setOverrun).res1 = s.res1 := rfl
@[simp] theorem State.setOverrun_cfgEcl : (s.setOverrun).cfgEcl = s.cfgEcl := rfl
@[simp] theorem State.setOverrun_cfgVersion : (s.setOverrun).cfgVersion = s.cfgVersion := rfl
@[simp] theorem State.setOverrun_segCount : (s.setOverrun).segCount = s.segCount := rfl
@[simp] theorem State.setOverrun_moduleCount : (s.setOverrun).moduleCount = s.moduleCount := rfl
@[simp] theorem State.setOverrun_symVersion : (s.setOverrun).symVersion = s.symVersion := rfl
@[simp] theorem State.setOverrun_symMask : (s.setOverrun).symMask = s.symMask := rfl
@[simp] theorem State.setOverrun_symEcl : (s.setOverrun).symEcl = s.symEcl := rfl
@[simp] theorem State.setOverrun_cwLen : (s.setOverrun).cwLen = s.cwLen := rfl
@[simp] theorem State.setOverrun_plen0 : (s.setOverrun).plen0 = s.plen0 := rfl
@[simp] theorem State.setOverrun_plen1 : (s.setOverrun).plen1 = s.plen1 := rfl
@[simp] theorem State.setOverrun_plen2 : (s.setOverrun).plen2 = s.plen2 := rfl
@[simp] theorem State.setOverrun_plen3 : (s.setOverrun).plen3 = s.plen3 := rfl
@[simp] theorem State.setOverrun_mem : (s.setOverrun).mem = s.mem := rfl
@[simp] theorem State.setOverrun_bb : (s.setOverrun).bb = s.bb := rfl
@[simp] theorem State.setOverrun_gridState : (s.setOverrun).gridState = s.gridState := rfl
@[simp] theorem State.setOverrun_grid : (s.setOverrun).grid = s.grid := rfl
@[simp] theorem State.setOverrun_rst : (s.setOverrun).rst = s.rst := rfl
@[simp] theorem State.setOverrun_bus : (s.setOverrun).bus = s.bus := rfl
@[simp] theorem State.setOverrun_resp : (s.setOverrun).resp = s.resp := rfl
@[simp] theorem State.setOverrun_latency : (s.setOverrun).latency = s.latency := rfl
@[simp] theorem State.setOverrun_draws : (s.setOverrun).draws = s.draws := rfl

/-! ## respond -/

@[simp] theorem State.respond_ie (r : BusResp) : (s.respond r).ie = s.ie := rfl
@[simp] theorem State.respond_seq (r : BusResp) : (s.respond r).seq = s.seq := rfl
@[simp] theorem State.respond_done (r : BusResp) : (s.respond r).done = s.done := rfl
@[simp] theorem State.respond_overrun (r : BusResp) : (s.respond r).overrun = s.overrun := rfl
@[simp] theorem State.respond_err (r : BusResp) : (s.respond r).err = s.err := rfl
@[simp] theorem State.respond_arg0 (r : BusResp) : (s.respond r).arg0 = s.arg0 := rfl
@[simp] theorem State.respond_arg1 (r : BusResp) : (s.respond r).arg1 = s.arg1 := rfl
@[simp] theorem State.respond_arg2 (r : BusResp) : (s.respond r).arg2 = s.arg2 := rfl
@[simp] theorem State.respond_res0 (r : BusResp) : (s.respond r).res0 = s.res0 := rfl
@[simp] theorem State.respond_res1 (r : BusResp) : (s.respond r).res1 = s.res1 := rfl
@[simp] theorem State.respond_cfgEcl (r : BusResp) : (s.respond r).cfgEcl = s.cfgEcl := rfl
@[simp] theorem State.respond_cfgVersion (r : BusResp) : (s.respond r).cfgVersion = s.cfgVersion := rfl
@[simp] theorem State.respond_segCount (r : BusResp) : (s.respond r).segCount = s.segCount := rfl
@[simp] theorem State.respond_moduleCount (r : BusResp) : (s.respond r).moduleCount = s.moduleCount := rfl
@[simp] theorem State.respond_symVersion (r : BusResp) : (s.respond r).symVersion = s.symVersion := rfl
@[simp] theorem State.respond_symMask (r : BusResp) : (s.respond r).symMask = s.symMask := rfl
@[simp] theorem State.respond_symEcl (r : BusResp) : (s.respond r).symEcl = s.symEcl := rfl
@[simp] theorem State.respond_cwLen (r : BusResp) : (s.respond r).cwLen = s.cwLen := rfl
@[simp] theorem State.respond_plen0 (r : BusResp) : (s.respond r).plen0 = s.plen0 := rfl
@[simp] theorem State.respond_plen1 (r : BusResp) : (s.respond r).plen1 = s.plen1 := rfl
@[simp] theorem State.respond_plen2 (r : BusResp) : (s.respond r).plen2 = s.plen2 := rfl
@[simp] theorem State.respond_plen3 (r : BusResp) : (s.respond r).plen3 = s.plen3 := rfl
@[simp] theorem State.respond_mem (r : BusResp) : (s.respond r).mem = s.mem := rfl
@[simp] theorem State.respond_bb (r : BusResp) : (s.respond r).bb = s.bb := rfl
@[simp] theorem State.respond_gridState (r : BusResp) : (s.respond r).gridState = s.gridState := rfl
@[simp] theorem State.respond_grid (r : BusResp) : (s.respond r).grid = s.grid := rfl
@[simp] theorem State.respond_rst (r : BusResp) : (s.respond r).rst = s.rst := rfl
@[simp] theorem State.respond_bus (r : BusResp) : (s.respond r).bus = s.bus := rfl
@[simp] theorem State.respond_resp (r : BusResp) : (s.respond r).resp = r := rfl
@[simp] theorem State.respond_latency (r : BusResp) : (s.respond r).latency = s.latency := rfl
@[simp] theorem State.respond_draws (r : BusResp) : (s.respond r).draws = s.draws := rfl

/-! ## drawRead -/

@[simp] theorem State.drawRead_ie : (s.drawRead).ie = s.ie := rfl
@[simp] theorem State.drawRead_seq : (s.drawRead).seq = s.seq := rfl
@[simp] theorem State.drawRead_done : (s.drawRead).done = s.done := rfl
@[simp] theorem State.drawRead_overrun : (s.drawRead).overrun = s.overrun := rfl
@[simp] theorem State.drawRead_err : (s.drawRead).err = s.err := rfl
@[simp] theorem State.drawRead_arg0 : (s.drawRead).arg0 = s.arg0 := rfl
@[simp] theorem State.drawRead_arg1 : (s.drawRead).arg1 = s.arg1 := rfl
@[simp] theorem State.drawRead_arg2 : (s.drawRead).arg2 = s.arg2 := rfl
@[simp] theorem State.drawRead_res0 : (s.drawRead).res0 = s.res0 := rfl
@[simp] theorem State.drawRead_res1 : (s.drawRead).res1 = s.res1 := rfl
@[simp] theorem State.drawRead_cfgEcl : (s.drawRead).cfgEcl = s.cfgEcl := rfl
@[simp] theorem State.drawRead_cfgVersion : (s.drawRead).cfgVersion = s.cfgVersion := rfl
@[simp] theorem State.drawRead_segCount : (s.drawRead).segCount = s.segCount := rfl
@[simp] theorem State.drawRead_moduleCount : (s.drawRead).moduleCount = s.moduleCount := rfl
@[simp] theorem State.drawRead_symVersion : (s.drawRead).symVersion = s.symVersion := rfl
@[simp] theorem State.drawRead_symMask : (s.drawRead).symMask = s.symMask := rfl
@[simp] theorem State.drawRead_symEcl : (s.drawRead).symEcl = s.symEcl := rfl
@[simp] theorem State.drawRead_cwLen : (s.drawRead).cwLen = s.cwLen := rfl
@[simp] theorem State.drawRead_plen0 : (s.drawRead).plen0 = s.plen0 := rfl
@[simp] theorem State.drawRead_plen1 : (s.drawRead).plen1 = s.plen1 := rfl
@[simp] theorem State.drawRead_plen2 : (s.drawRead).plen2 = s.plen2 := rfl
@[simp] theorem State.drawRead_plen3 : (s.drawRead).plen3 = s.plen3 := rfl
@[simp] theorem State.drawRead_mem : (s.drawRead).mem = s.mem := rfl
@[simp] theorem State.drawRead_bb : (s.drawRead).bb = s.bb := rfl
@[simp] theorem State.drawRead_gridState : (s.drawRead).gridState = s.gridState := rfl
@[simp] theorem State.drawRead_grid : (s.drawRead).grid = s.grid := rfl
@[simp] theorem State.drawRead_rst : (s.drawRead).rst = s.rst := rfl
@[simp] theorem State.drawRead_bus : (s.drawRead).bus = s.bus := rfl
@[simp] theorem State.drawRead_resp : (s.drawRead).resp = .data (Config.busyReadValue s.draws) := rfl
@[simp] theorem State.drawRead_latency : (s.drawRead).latency = s.latency := rfl
@[simp] theorem State.drawRead_draws : (s.drawRead).draws = s.draws + 1 := rfl

/-! ## Views -/

@[simp] theorem State.setRes0_irq (v : Word) : (s.setRes0 v).irq = s.irq := rfl
@[simp] theorem State.setRes0_busy (v : Word) : (s.setRes0 v).busy = s.busy := rfl
@[simp] theorem State.setRes0_committed (v : Word) : (s.setRes0 v).committed = s.committed := rfl
@[simp] theorem State.setRes0_bbLen (v : Word) : (s.setRes0 v).bbLen = s.bbLen := rfl
@[simp] theorem State.setRes1_irq (v : Word) : (s.setRes1 v).irq = s.irq := rfl
@[simp] theorem State.setRes1_busy (v : Word) : (s.setRes1 v).busy = s.busy := rfl
@[simp] theorem State.setRes1_committed (v : Word) : (s.setRes1 v).committed = s.committed := rfl
@[simp] theorem State.setRes1_bbLen (v : Word) : (s.setRes1 v).bbLen = s.bbLen := rfl
@[simp] theorem State.setMem_irq (m : Memory) : (s.setMem m).irq = s.irq := rfl
@[simp] theorem State.setMem_busy (m : Memory) : (s.setMem m).busy = s.busy := rfl
@[simp] theorem State.setMem_committed (m : Memory) : (s.setMem m).committed = s.committed := rfl
@[simp] theorem State.setMem_bbLen (m : Memory) : (s.setMem m).bbLen = s.bbLen := rfl
@[simp] theorem State.setPlen_irq (k : PReg) (v : BitVec 9) : (s.setPlen k v).irq = s.irq := by cases k <;> rfl
@[simp] theorem State.setPlen_busy (k : PReg) (v : BitVec 9) : (s.setPlen k v).busy = s.busy := by cases k <;> rfl
@[simp] theorem State.setPlen_committed (k : PReg) (v : BitVec 9) : (s.setPlen k v).committed = s.committed := by cases k <;> rfl
@[simp] theorem State.setPlen_bbLen (k : PReg) (v : BitVec 9) : (s.setPlen k v).bbLen = s.bbLen := by cases k <;> rfl
@[simp] theorem State.writePoly_irq (k : PReg) (r : List Byte) : (s.writePoly k r).irq = s.irq := by cases k <;> rfl
@[simp] theorem State.writePoly_busy (k : PReg) (r : List Byte) : (s.writePoly k r).busy = s.busy := by cases k <;> rfl
@[simp] theorem State.writePoly_committed (k : PReg) (r : List Byte) : (s.writePoly k r).committed = s.committed := by cases k <;> rfl
@[simp] theorem State.writePoly_bbLen (k : PReg) (r : List Byte) : (s.writePoly k r).bbLen = s.bbLen := by cases k <;> rfl
@[simp] theorem State.writeCodewords_irq (o : List Byte) : (s.writeCodewords o).irq = s.irq := rfl
@[simp] theorem State.writeCodewords_busy (o : List Byte) : (s.writeCodewords o).busy = s.busy := rfl
@[simp] theorem State.writeCodewords_committed (o : List Byte) : (s.writeCodewords o).committed = s.committed := rfl
@[simp] theorem State.writeCodewords_bbLen (o : List Byte) : (s.writeCodewords o).bbLen = s.bbLen := rfl
@[simp] theorem State.setBits_irq (b : List Bool) : (s.setBits b).irq = s.irq := rfl
@[simp] theorem State.setBits_busy (b : List Bool) : (s.setBits b).busy = s.busy := rfl
@[simp] theorem State.setBits_committed (b : List Bool) : (s.setBits b).committed = s.committed := rfl
@[simp] theorem State.clearBits_irq : (s.clearBits).irq = s.irq := rfl
@[simp] theorem State.clearBits_busy : (s.clearBits).busy = s.busy := rfl
@[simp] theorem State.clearBits_committed : (s.clearBits).committed = s.committed := rfl
@[simp] theorem State.appendBits_irq (b : List Bool) : (s.appendBits b).irq = s.irq := rfl
@[simp] theorem State.appendBits_busy (b : List Bool) : (s.appendBits b).busy = s.busy := rfl
@[simp] theorem State.appendBits_committed (b : List Bool) : (s.appendBits b).committed = s.committed := rfl
@[simp] theorem State.setGrid_irq (g : Grid) (st : GridState) (v m : Nat) (eb : BitVec 2) : (s.setGrid g st v m eb).irq = s.irq := rfl
@[simp] theorem State.setGrid_busy (g : Grid) (st : GridState) (v m : Nat) (eb : BitVec 2) : (s.setGrid g st v m eb).busy = s.busy := rfl
@[simp] theorem State.setGrid_bbLen (g : Grid) (st : GridState) (v m : Nat) (eb : BitVec 2) : (s.setGrid g st v m eb).bbLen = s.bbLen := rfl
@[simp] theorem State.dropGrid_irq : (s.dropGrid).irq = s.irq := rfl
@[simp] theorem State.dropGrid_busy : (s.dropGrid).busy = s.busy := rfl
@[simp] theorem State.dropGrid_bbLen : (s.dropGrid).bbLen = s.bbLen := rfl
@[simp] theorem State.capture_committed (w : Word) (n : Nat) : (s.capture w n).committed = s.committed := rfl
@[simp] theorem State.capture_bbLen (w : Word) (n : Nat) : (s.capture w n).bbLen = s.bbLen := rfl
@[simp] theorem State.accept_committed (w : Word) : (s.accept w).committed = s.committed := rfl
@[simp] theorem State.accept_bbLen (w : Word) : (s.accept w).bbLen = s.bbLen := rfl
@[simp] theorem State.complete_committed (e : ErrCode) : (s.complete e).committed = s.committed := rfl
@[simp] theorem State.complete_bbLen (e : ErrCode) : (s.complete e).bbLen = s.bbLen := rfl
@[simp] theorem State.setRst_irq (b : Bool) : (s.setRst b).irq = s.irq := rfl
@[simp] theorem State.setRst_busy (b : Bool) : (s.setRst b).busy = s.busy := rfl
@[simp] theorem State.setRst_committed (b : Bool) : (s.setRst b).committed = s.committed := rfl
@[simp] theorem State.setRst_bbLen (b : Bool) : (s.setRst b).bbLen = s.bbLen := rfl
@[simp] theorem State.clearFlags_busy (v : Word) : (s.clearFlags v).busy = s.busy := rfl
@[simp] theorem State.clearFlags_committed (v : Word) : (s.clearFlags v).committed = s.committed := rfl
@[simp] theorem State.clearFlags_bbLen (v : Word) : (s.clearFlags v).bbLen = s.bbLen := rfl
@[simp] theorem State.setCtrl_busy (v : Word) : (s.setCtrl v).busy = s.busy := rfl
@[simp] theorem State.setCtrl_committed (v : Word) : (s.setCtrl v).committed = s.committed := rfl
@[simp] theorem State.setCtrl_bbLen (v : Word) : (s.setCtrl v).bbLen = s.bbLen := rfl
@[simp] theorem State.setOverrun_irq : (s.setOverrun).irq = s.irq := rfl
@[simp] theorem State.setOverrun_busy : (s.setOverrun).busy = s.busy := rfl
@[simp] theorem State.setOverrun_committed : (s.setOverrun).committed = s.committed := rfl
@[simp] theorem State.setOverrun_bbLen : (s.setOverrun).bbLen = s.bbLen := rfl
@[simp] theorem State.respond_irq (r : BusResp) : (s.respond r).irq = s.irq := rfl
@[simp] theorem State.respond_busy (r : BusResp) : (s.respond r).busy = s.busy := rfl
@[simp] theorem State.respond_committed (r : BusResp) : (s.respond r).committed = s.committed := rfl
@[simp] theorem State.respond_bbLen (r : BusResp) : (s.respond r).bbLen = s.bbLen := rfl
@[simp] theorem State.drawRead_irq : (s.drawRead).irq = s.irq := rfl
@[simp] theorem State.drawRead_busy : (s.drawRead).busy = s.busy := rfl
@[simp] theorem State.drawRead_committed : (s.drawRead).committed = s.committed := rfl
@[simp] theorem State.drawRead_bbLen : (s.drawRead).bbLen = s.bbLen := rfl
@[simp] theorem State.complete_busy (e : ErrCode) : (s.complete e).busy = false := rfl
@[simp] theorem State.complete_irq (e : ErrCode) : (s.complete e).irq = s.ie := by simp [State.irq]
@[simp] theorem State.capture_busy (w : Word) (n : Nat) : (s.capture w n).busy = true := rfl
@[simp] theorem State.accept_busy (w : Word) : (s.accept w).busy = true := rfl

@[simp] theorem State.plen_setPlen (k j : PReg) (v : BitVec 9) :
    (s.setPlen k v).plen j = if k = j then v else s.plen j := by cases k <;> cases j <;> rfl

@[simp] theorem State.plen_writePoly (k j : PReg) (r : List Byte) :
    (s.writePoly k r).plen j = if k = j then BitVec.ofNat 9 r.length else s.plen j := by
  cases k <;> cases j <;> rfl

@[simp] theorem State.plen_complete (e : ErrCode) (j : PReg) : (s.complete e).plen j = s.plen j := by
  cases j <;> rfl

end Sys2Proof.Machine
end

