-- ==== Sys2Proof/Laws/Ops.lean ====
section
/-! SUPPORT. What the shared operations of the command cycle do, said once: a proof about a command cites these and does
not unfold `finish`, `raise`, `step` or the window writes. -/

namespace Sys2Proof.Machine

/-- A successful completion is a next state, and the only one. -/
@[simp] theorem finish_eq_next {s t : State} : finish s = .next t ↔ t = s.complete .none := by
  unfold finish
  constructor
  · intro h
    injection h with h
    exact h.symm
  · rintro rfl
    rfl

/-- So is a completion with an error. -/
@[simp] theorem raise_eq_next {e : ErrCode} {s t : State} : raise e s = .next t ↔ t = s.complete e := by
  unfold raise
  constructor
  · intro h
    injection h with h
    exact h.symm
  · rintro rfl
    rfl

/-- A polynomial result ends as its error or as the register written. -/
theorem finishPoly_eq_next {d : PReg} {r : Except ErrCode (List Byte)} {s t : State} :
    finishPoly d r s = .next t ↔
      (∃ e, r = .error e ∧ t = s.complete e) ∨ (∃ p, r = .ok p ∧ t = (s.writePoly d p).complete .none) := by
  cases r with
  | error e => simp [finishPoly]
  | ok p => simp [finishPoly]

/-- The captured word runs. -/
theorem runCommand_ok {w : Word} {i : Instr} (h : decode w = .ok i) (s : State) : runCommand w s = exec i s := by
  simp only [runCommand, h]

theorem runCommand_error {w : Word} {e : Illegal} (h : decode w = .error e) (s : State) :
    runCommand w s = .next (s.complete .illegalCommand) := by
  simp only [runCommand, h, raise]

/-- Everything a step can be. -/
theorem step_cases (s : State) :
    (s.rst = true ∧ step s = .next s.heldTurn) ∨
    (∃ w n, s.rst = false ∧ s.seq = .busy w n ∧ (n = 0 ∨ s.bus = []) ∧ step s = runCommand w s) ∨
    (∃ w n e rest, s.rst = false ∧ s.seq = .busy w (n + 1) ∧ s.bus = e :: rest ∧
      step s = .next ({ s with bus := rest, seq := .busy w n }.busEvent e)) ∨
    (s.rst = false ∧ s.seq = .idle ∧ s.bus = [] ∧ step s = .next s) ∨
    (∃ e rest, s.rst = false ∧ s.seq = .idle ∧ s.bus = e :: rest ∧
      step s = .next ({ s with bus := rest }.busEvent e)) := by
  cases hr : s.rst with
  | true => exact .inl ⟨rfl, by simp only [step, hr, if_true]⟩
  | false =>
    refine .inr ?_
    cases hs : s.seq with
    | idle =>
      cases hb : s.bus with
      | nil => exact .inr (.inr (.inl ⟨rfl, rfl, rfl, by simp [step, hr, hs, hb]⟩))
      | cons e rest =>
        refine .inr (.inr (.inr ⟨e, rest, rfl, rfl, rfl, ?_⟩))
        simp [step, hr, hs, hb, State.hostTurn]
    | busy w n =>
      cases n with
      | zero => exact .inl ⟨w, 0, rfl, rfl, .inl rfl, by simp [step, hr, hs]⟩
      | succ n =>
        cases hb : s.bus with
        | nil => exact .inl ⟨w, n + 1, rfl, rfl, .inr rfl, by simp [step, hr, hs, hb]⟩
        | cons e rest =>
          refine .inr (.inl ⟨w, n, e, rest, rfl, rfl, rfl, ?_⟩)
          simp [step, hr, hs, hb, State.hostTurn]

/-- A word access reaches a location exactly at the mapped offsets. -/
theorem busLoc_isSome_iff (a : Addr) : (busLoc a .word).isSome ↔ Mapped a := by
  have hb := a.isLt
  unfold busLoc Mapped locAt
  by_cases h : a.toNat % 4 = 0
  · simp only [h, and_self, if_true, true_and]
    split_ifs <;> simp <;> omega
  · simp [h]

/-- What a step of a core held in reset gives: every register at its reset value, the stored windows kept, the level
kept unless the action is the release. -/
theorem heldTurn_registers (s : State) (h : s.rst = true) :
    ∃ r, s.heldTurn = { State.reset with
      mem := s.mem, rst := decide (s.bus.head? ≠ some .rstRelease), bus := s.bus.tail, resp := r
      latency := s.latency, draws := s.draws } := by
  unfold State.heldTurn
  cases hb : s.bus with
  | nil => exact ⟨s.resp, by simp [State.resetRegisters, State.reset, h, hb]⟩
  | cons e rest =>
    cases e with
    | read a w =>
      simp only [State.busEvent, State.hostRead]
      split
      · exact ⟨.error, by simp [State.respond, State.resetRegisters, State.reset, h]⟩
      · exact ⟨_, by simp [State.busy, State.respond, State.resetRegisters, State.reset, h]; rfl⟩
    | write a w v =>
      simp only [State.busEvent, State.heldWrite, State.resetRegisters_rst, h, if_true]
      split
      · exact ⟨.error, by simp [State.respond, State.resetRegisters, State.reset, h]⟩
      · exact ⟨.ok, by simp [State.respond, State.resetRegisters, State.reset, h]⟩
    | rstAssert c =>
      exact ⟨.none, by simp [State.busEvent, State.assertRst, State.respond, State.resetRegisters, State.reset, h]⟩
    | rstRelease =>
      exact ⟨.none, by simp [State.busEvent, State.setRst, State.respond, State.resetRegisters, State.reset]⟩

/-- The coefficients a result of at most 256 coefficients leaves in its register, and the bytes it leaves alone. -/
theorem writePoly_read {s : State} (hm : s.mem.wf = true) (d : PReg) {r : List Byte} (hr : r.length ≤ 256) :
    (∀ k, k < r.length → (s.writePoly d r).mem.read (prAddr d k) = r.getD k 0#8) ∧
    (∀ x, (∀ k, k < r.length → x ≠ prAddr d k) → (s.writePoly d r).mem.read x = s.mem.read x) := by
  have hmem : (s.writePoly d r).mem = s.mem.writeList (prAddr d 0) 4 r := by
    unfold State.writePoly State.setPlen
    cases d <;> rfl
  have haddr : ∀ k, prAddr d k = prAddr d 0 + 4 * k := fun k => by unfold prAddr; omega
  rw [hmem]
  constructor
  · intro k hk
    rw [haddr k, Memory.read_writeList (Memory.wf_rising hm) (by omega) hk, ← haddr k,
      storageMask_prAddr d (by simp only [Config.polyMax]; omega), and_fullMask]
    simp [List.getD, hk]
  · intro x hx
    exact Memory.read_writeList_of_ne (Memory.wf_rising hm) (fun i hi => by rw [← haddr i]; exact hx i hi)

/-- The same for the codewords ENCODE writes. -/
theorem writeCodewords_read {s : State} (hm : s.mem.wf = true) {out : List Byte} (hr : out.length ≤ 3706) :
    (∀ k, k < out.length → (s.writeCodewords out).mem.read (cwAddr k) = out.getD k 0#8) ∧
    (∀ x, (∀ k, k < out.length → x ≠ cwAddr k) → (s.writeCodewords out).mem.read x = s.mem.read x) := by
  have hmem : (s.writeCodewords out).mem = s.mem.writeList (cwAddr 0) 4 out := rfl
  have haddr : ∀ k, cwAddr k = cwAddr 0 + 4 * k := fun k => by unfold cwAddr; omega
  rw [hmem]
  constructor
  · intro k hk
    rw [haddr k, Memory.read_writeList (Memory.wf_rising hm) (by omega) hk, ← haddr k,
      storageMask_cwAddr (by simp only [Config.cwCap]; omega), and_fullMask]
    simp [List.getD, hk]
  · intro x hx
    exact Memory.read_writeList_of_ne (Memory.wf_rising hm) (fun i hi => by rw [← haddr i]; exact hx i hi)

end Sys2Proof.Machine
end

