-- ==== Sys2Proof/Laws/PerInstr.lean ====
section
/-! SUPPORT. Facts stated of every command as syntax, one lemma per constructor. -/

namespace Sys2Proof.Laws

/-- The encoded word carries the command's opcode in bits 7:0, zeros in the reserved bits 31:14, and its fields meet
R111's conditions (30_encoding.md R110, R111, R114). -/
def EncodingFields.Statement (i : Instr) : Prop :=
  (encode i).extractLsb' 0 8 = i.opcode ∧ (encode i).extractLsb' 14 18 = 0#18 ∧ i.wellFormed = true

theorem EncodingFields.nop : EncodingFields.Statement .nop := by unfold EncodingFields.Statement; decide
theorem EncodingFields.sreset : EncodingFields.Statement .sreset := by unfold EncodingFields.Statement; decide
theorem EncodingFields.gfExp : EncodingFields.Statement .gfExp := by unfold EncodingFields.Statement; decide
theorem EncodingFields.gfLog : EncodingFields.Statement .gfLog := by unfold EncodingFields.Statement; decide
theorem EncodingFields.polyMul (d a b : PReg) : EncodingFields.Statement (.polyMul d a b) := by
  unfold EncodingFields.Statement; cases d <;> cases a <;> cases b <;> decide
theorem EncodingFields.polyMod (d a b : PReg) : EncodingFields.Statement (.polyMod d a b) := by
  unfold EncodingFields.Statement; cases d <;> cases a <;> cases b <;> decide
theorem EncodingFields.polyGen (d : PReg) : EncodingFields.Statement (.polyGen d) := by
  unfold EncodingFields.Statement; cases d <;> decide
theorem EncodingFields.rsEcc (d a : PReg) : EncodingFields.Statement (.rsEcc d a) := by
  unfold EncodingFields.Statement; cases d <;> cases a <;> decide
theorem EncodingFields.bbClear : EncodingFields.Statement .bbClear := by unfold EncodingFields.Statement; decide
theorem EncodingFields.bbPut : EncodingFields.Statement .bbPut := by unfold EncodingFields.Statement; decide
theorem EncodingFields.segWrite : EncodingFields.Statement .segWrite := by unfold EncodingFields.Statement; decide
theorem EncodingFields.build : EncodingFields.Statement .build := by unfold EncodingFields.Statement; decide
theorem EncodingFields.bchFmt : EncodingFields.Statement .bchFmt := by unfold EncodingFields.Statement; decide
theorem EncodingFields.bchVer : EncodingFields.Statement .bchVer := by unfold EncodingFields.Statement; decide
theorem EncodingFields.maskBit : EncodingFields.Statement .maskBit := by unfold EncodingFields.Statement; decide
theorem EncodingFields.penalty : EncodingFields.Statement .penalty := by unfold EncodingFields.Statement; decide
theorem EncodingFields.encode : EncodingFields.Statement .encode := by unfold EncodingFields.Statement; decide
theorem EncodingFields.isDark : EncodingFields.Statement .isDark := by unfold EncodingFields.Statement; decide

end Sys2Proof.Laws
end

