-- ==== Sys2Proof/Laws/Poly.lean ====
section
/-! SUPPORT. What the polynomial functions do to lengths and leading coefficients, and when they raise an error. -/

namespace Sys2Proof.Machine

@[simp] theorem norm_nil : norm [] = [] := rfl

@[simp] theorem norm_singleton (x : Byte) : norm [x] = [x] := rfl

theorem norm_cons_zero (y : Byte) (t : List Byte) : norm (0#8 :: y :: t) = norm (y :: t) := by
  simp [norm]

theorem norm_cons_of_ne {x : Byte} (h : x ≠ 0#8) (t : List Byte) : norm (x :: t) = x :: t := by
  cases t with
  | nil => rfl
  | cons y t => simp [norm, h]

theorem norm_ne_nil {p : List Byte} (h : p ≠ []) : norm p ≠ [] := by
  induction p with
  | nil => exact absurd rfl h
  | cons x t ih =>
    cases t with
    | nil => simp
    | cons y t =>
      by_cases hx : x = 0#8
      · subst hx; rw [norm_cons_zero]; exact ih (by simp)
      · rw [norm_cons_of_ne hx]; simp

theorem length_norm_le (p : List Byte) : (norm p).length ≤ p.length := by
  induction p with
  | nil => simp
  | cons x t ih =>
    cases t with
    | nil => simp
    | cons y t =>
      by_cases hx : x = 0#8
      · subst hx; rw [norm_cons_zero]; exact le_trans ih (by simp)
      · rw [norm_cons_of_ne hx]

@[simp] theorem length_xorInto (a b : List Byte) : (xorInto a b).length = a.length := by
  induction a generalizing b with
  | nil => simp [xorInto]
  | cons x a ih => cases b with
    | nil => rfl
    | cons y b => simp [xorInto, ih]

/-- The log of a byte fails exactly on 0. -/
theorem byteLog_eq (b : Byte) :
    byteLog b = if b = 0#8 then .error .gfLogZero else .ok (romAt logRom b.toNat).toNat := by
  unfold byteLog gfLog
  have hb := b.isLt
  by_cases h : b = 0#8
  · subst h; rfl
  · have h0 : b.toNat ≠ 0 := fun hc => h (BitVec.eq_of_toNat_eq (by simpa using hc))
    rw [if_neg (by omega), if_neg (by omega), if_neg h]
    simp

/-- `scale` fails exactly on a list with a zero coefficient. -/
theorem scale_eq (e : Int) (p : List Byte) :
    scale e p =
      if 0#8 ∈ p then .error .gfLogZero
      else .ok (p.map (fun x => gfExp (((romAt logRom x.toNat).toNat : Int) + e))) := by
  induction p with
  | nil => rfl
  | cons x p ih =>
    unfold scale
    rw [byteLog_eq, ih]
    by_cases hx : x = 0#8
    · subst hx; simp; rfl
    · by_cases hp : 0#8 ∈ p
      · simp [hx, hp, Ne.symm hx]; rfl
      · simp [hx, hp, Ne.symm hx]; rfl

@[simp] theorem length_padLeft (e : Nat) (r : List Byte) : (padLeft e r).length = e := by
  simp [padLeft]

end Sys2Proof.Machine
end

