-- ==== Sys2Proof/Tests/Slice0.lean ====
section
/-! SUPPORT. The model's own tests. Expected values are those of spec/95_test_vectors.md (named at each group) or of the
rules' worked examples, never the model's own output. The witnesses at the end meet the hypotheses of the statements in
Certificates/Slice0/Obligations.lean, clause by clause, at the ends of their ranges. -/

namespace Sys2Proof.Tests

open Sys2Proof.Machine

/-! ## Helpers -/

/-- The state right after reset. -/
abbrev s0 : State := State.reset

/-- One step from a state with a command word captured. -/
def run (s : State) (word : Nat) : Option State :=
  match step (s.withFetchWord 32 word) with
  | .next t => some t
  | _ => none

/-- The outcome of a step seen through one view of the next state. -/
def see {α : Type} (s : State) (word : Nat) (view : State → α) : Option α := (run s word).map view

/-- Operands in ARG0..ARG2. -/
def args (a b c : Nat) : State :=
  { s0 with arg0 := BitVec.ofNat 32 a, arg1 := BitVec.ofNat 32 b, arg2 := BitVec.ofNat 32 c }

/-- PR0 holds `p`, PR1 holds `q`, ARG0 holds `e`. -/
def polys (p q : List Byte) (e : Nat) : State :=
  { s0 with
    mem := Memory.writeList (Memory.writeList [] 0x1400 4 q) 0x1000 4 p
    plen0 := BitVec.ofNat 9 p.length, plen1 := BitVec.ofNat 9 q.length, arg0 := BitVec.ofNat 32 e }

/-- SEGDESC[0] = (mode, 0, length) over the text at TEXT[0], ARG1 = version. -/
def oneSegment (mode : BitVec 8) (text : List Word) (version : Nat) : State :=
  { s0 with
    mem := (text.zipIdx.foldl (fun m p => Memory.writeWord m (0x10000 + 4 * p.2) p.1)
      (Memory.writeWord (Memory.write [] 0x2000 mode) 0x2004 (BitVec.ofNat 32 (text.length * 65536))))
    arg1 := BitVec.ofNat 32 version, segCount := 1#7 }

/-- A 2 × 2 grid, MASKED. -/
def tinyGrid : State :=
  { s0 with gridState := .masked, moduleCount := 2#8, grid := [[.dark, .light], [.light, .dark]] }

/-! ## Well-formedness: an ill-formed term for each check -/

theorem test_wf_reserved_bits : CmdFields.wellFormed useNone ⟨0x00#8, 0#2, 0#2, 0#2, 1#18⟩ = false := by decide
theorem test_wf_rd : CmdFields.wellFormed useNone ⟨0x20#8, 1#2, 0#2, 0#2, 0#18⟩ = false := by decide
theorem test_wf_ra : CmdFields.wellFormed ⟨true, false, false⟩ ⟨0x14#8, 3#2, 1#2, 0#2, 0#18⟩ = false := by decide
theorem test_wf_rb : CmdFields.wellFormed ⟨true, true, false⟩ ⟨0x15#8, 3#2, 1#2, 2#2, 0#18⟩ = false := by decide
theorem test_wf_good : CmdFields.wellFormed ⟨true, true, true⟩ ⟨0x12#8, 2#2, 3#2, 1#2, 0#18⟩ = true := by decide

/-! ## Decoding: every constructor from a word written out from R110 and R114 (reserved ++ RB ++ RA ++ RD ++ OP) -/

theorem test_decode_nop : decode (0#18 ++ 0b00#2 ++ 0b00#2 ++ 0b00#2 ++ 0b00000000#8) = .ok .nop := by decide
theorem test_decode_sreset : decode (0#18 ++ 0b00#2 ++ 0b00#2 ++ 0b00#2 ++ 0b00000001#8) = .ok .sreset := by decide
theorem test_decode_gfExp : decode (0#18 ++ 0b00#2 ++ 0b00#2 ++ 0b00#2 ++ 0b00010000#8) = .ok .gfExp := by decide
theorem test_decode_gfLog : decode (0#18 ++ 0b00#2 ++ 0b00#2 ++ 0b00#2 ++ 0b00010001#8) = .ok .gfLog := by decide
theorem test_decode_polyMul :
    decode (0#18 ++ 0b01#2 ++ 0b00#2 ++ 0b10#2 ++ 0b00010010#8) = .ok (.polyMul .p2 .p0 .p1) := by decide
theorem test_decode_polyMod :
    decode (0#18 ++ 0b10#2 ++ 0b11#2 ++ 0b01#2 ++ 0b00010011#8) = .ok (.polyMod .p1 .p3 .p2) := by decide
theorem test_decode_polyGen :
    decode (0#18 ++ 0b00#2 ++ 0b00#2 ++ 0b11#2 ++ 0b00010100#8) = .ok (.polyGen .p3) := by decide
theorem test_decode_rsEcc :
    decode (0#18 ++ 0b00#2 ++ 0b01#2 ++ 0b11#2 ++ 0b00010101#8) = .ok (.rsEcc .p3 .p1) := by decide
theorem test_decode_bbClear : decode (0#18 ++ 0b00#2 ++ 0b00#2 ++ 0b00#2 ++ 0b00100000#8) = .ok .bbClear := by decide
theorem test_decode_bbPut : decode (0#18 ++ 0b00#2 ++ 0b00#2 ++ 0b00#2 ++ 0b00100001#8) = .ok .bbPut := by decide
theorem test_decode_segWrite : decode (0#18 ++ 0b00#2 ++ 0b00#2 ++ 0b00#2 ++ 0b00100010#8) = .ok .segWrite := by decide
theorem test_decode_build : decode (0#18 ++ 0b00#2 ++ 0b00#2 ++ 0b00#2 ++ 0b00110000#8) = .ok .build := by decide
theorem test_decode_bchFmt : decode (0#18 ++ 0b00#2 ++ 0b00#2 ++ 0b00#2 ++ 0b00110001#8) = .ok .bchFmt := by decide
theorem test_decode_bchVer : decode (0#18 ++ 0b00#2 ++ 0b00#2 ++ 0b00#2 ++ 0b00110010#8) = .ok .bchVer := by decide
theorem test_decode_maskBit : decode (0#18 ++ 0b00#2 ++ 0b00#2 ++ 0b00#2 ++ 0b00110011#8) = .ok .maskBit := by decide
theorem test_decode_penalty : decode (0#18 ++ 0b00#2 ++ 0b00#2 ++ 0b00#2 ++ 0b01000000#8) = .ok .penalty := by decide
theorem test_decode_encode : decode (0#18 ++ 0b00#2 ++ 0b00#2 ++ 0b00#2 ++ 0b01010000#8) = .ok .encode := by decide
theorem test_decode_isDark : decode (0#18 ++ 0b00#2 ++ 0b00#2 ++ 0b00#2 ++ 0b01010001#8) = .ok .isDark := by decide

/-- R117's examples. -/
theorem test_encode_words :
    encode (.polyMul .p2 .p0 .p1) = 0x00001212#32 ∧ encode (.rsEcc .p3 .p1) = 0x00000715#32 := by decide

/-- R115: reserved opcodes, a reserved bit, an unused field of each kind. -/
theorem test_decode_illegal :
    decode 0x02#32 = .error .reservedOpcode ∧ decode 0xFF#32 = .error .reservedOpcode ∧
    decode 0x80000012#32 = .error .reservedBits ∧ decode 0x4000#32 = .error .reservedBits ∧
    decode 0x100#32 = .error .unusedField ∧ decode 0x414#32 = .error .unusedField ∧
    decode 0x1015#32 = .error .unusedField := by decide

/-- IllegalCommand changes only STATUS (V-E, R382): ERR is 8. -/
theorem test_illegal_status : see s0 0x02 State.statusWord = some 0x802#32 := by decide

/-! ## Commands -/

/-- V-G1. -/
theorem test_gfExp_eight : see (args 8 0 0) 0x10 State.res0 = some 0x1D#32 := by decide
theorem test_gfExp_negative : see (args 0x80000000 0 0) 0x10 State.res0 = some 0xCC#32 := by decide

/-- V-G2. -/
theorem test_gfLog : see (args 0x1D 0 0) 0x11 State.res0 = some 8#32 := by decide
theorem test_gfLog_zero : see (args 0 0 0) 0x11 State.statusWord = some 0x502#32 := by decide

/-- V-P1: a zero inside the product is allowed; a zero operand is not. -/
theorem test_polyMul :
    see (polys [0x80#8, 1#8] [0x80#8, 1#8] 0) 0x1212 (fun t => t.polyRaw .p2) = some [0x13#8, 0#8, 1#8] := by decide
theorem test_polyMul_zero : see (polys [2#8] [0#8] 0) 0x1212 State.statusWord = some 0x502#32 := by decide

/-- V-P2, with RD = RB. -/
theorem test_polyMod :
    see (polys [1#8, 2#8, 3#8, 4#8] [1#8, 3#8, 2#8] 0) 0x1113 (fun t => t.polyRaw .p1) = some [2#8, 6#8] := by decide
theorem test_polyMod_constant : see (polys [1#8, 2#8] [3#8] 0) 0x1213 State.statusWord = some 0x502#32 := by decide

/-- V-P3. -/
theorem test_polyGen :
    see (args 3 0 0) 0x314 (fun t => t.polyRaw .p3) = some [1#8, 7#8, 0xE#8, 8#8] := by decide
theorem test_polyGen_limit : see (args 256 0 0) 0x314 State.statusWord = some 0x702#32 := by decide

/-- V-R1: a leading zero codeword is kept. -/
theorem test_rsEcc :
    see (polys [0#8] [0xA7#8, 1#8] 3) 0x715 (fun t => t.polyRaw .p3) = some [0#8, 4#8, 0xA2#8] := by decide
theorem test_rsEcc_empty : see (polys [0#8] [1#8] 0) 0x715 State.statusWord = some 0x602#32 := by decide

/-- R211. -/
theorem test_bbClear : see { s0 with bb := [true, false] } 0x20 State.bbLen = some 0 := by decide

/-- V-S1. -/
theorem test_bbPut : see (args 0x12 4 0) 0x21 State.bb = some [false, false, true, false] := by decide
theorem test_bbPut_wide : see (args 0x12 33 0) 0x21 State.statusWord = some 0x602#32 := by decide

/-- V-S2 "12", and V-S4 an invalid character at index 1. -/
theorem test_segWrite :
    see (oneSegment 1#8 [0x31#32, 0x32#32] 1) 0x22 (fun t => (t.res0, t.res1, bbByte t.bb 1, bbByte t.bb 2)) =
      some (21#32, 2#32, 0x08#8, 0x60#8) := by decide
theorem test_segWrite_invalid :
    see (oneSegment 2#8 [0x41#32, 0x61#32] 1) 0x22 (fun t => (t.statusWord, t.res0, t.res1, t.bb)) =
      some (0x102#32, 0#32, 1#32, []) := by decide

/-- V-B3: BadArgument, and InvalidMaskPattern when the rest is legal. -/
theorem test_build_version : see (args 0 0 41) 0x30 State.statusWord = some 0x602#32 := by decide
theorem test_build_mask : see (args 8 0 1) 0x30 State.statusWord = some 0x402#32 := by decide

/-- V-T1, V-T2. -/
theorem test_bchFmt : see (args 8 0 0) 0x31 State.res0 = some 0x77C4#32 := by decide
theorem test_bchFmt_range : see (args 32 0 0) 0x31 State.statusWord = some 0x602#32 := by decide
theorem test_bchVer : see (args 40 0 0) 0x32 State.res0 = some 0x28C69#32 := by decide
theorem test_bchVer_range : see (args 64 0 0) 0x32 State.statusWord = some 0x602#32 := by decide

/-- V-B5. -/
theorem test_maskBit :
    [0, 1, 2, 3, 4, 5, 6, 7].map (fun m => see (args m 255 255) 0x33 State.res0) =
      [some 1#32, some 0#32, some 1#32, some 1#32, some 1#32, some 0#32, some 0#32, some 1#32] := by decide
theorem test_maskBit_order : see (args 8 256 0) 0x33 State.statusWord = some 0x602#32 := by decide

/-- R335, R334: a 2 × 2 grid with two DARK cells has no run, block or finder, and is exactly half dark. -/
theorem test_penalty : see tinyGrid 0x40 (fun t => (t.res0, t.res1)) = some (0#32, 2#32) := by decide
theorem test_penalty_empty : see s0 0x40 State.statusWord = some 0x602#32 := by decide

/-- R352: SEG_COUNT 65, and V-A3 CodeTooLarge with a fixed version: 4 + 10 + 147 = 161 bits of 44 digits exceed
capbits(1, M) = 128. -/
theorem test_encode_count :
    see { s0 with segCount := 65#7 } 0x50 (fun t => (t.statusWord, t.res0)) = some (0x602#32, 0xFFFFFFFF#32) := by
  decide
theorem test_encode_too_large :
    see { oneSegment 1#8 (List.replicate 44 0x31#32) 0 with cfgVersion := 1#6 } 0x50 State.statusWord =
      some 0x202#32 := by decide +kernel

/-- R353. -/
theorem test_isDark : see { tinyGrid with arg0 := 1#32, arg1 := 1#32 } 0x51 State.res0 = some 1#32 := by decide
theorem test_isDark_range :
    see { tinyGrid with arg0 := 0xFFFFFFFF#32 } 0x51 State.statusWord = some 0x302#32 := by decide

/-- R350, R351. -/
theorem test_nop : see s0 0x00 State.statusWord = some 0x2#32 := by decide
theorem test_sreset :
    see { tinyGrid with ie := true, overrun := true, plen2 := 9#9, mem := [(0x1000, 5#8)] } 0x01
      (fun t => (t.statusWord, t.moduleCount, t.plen2, t.mem)) = some (0x2#32, 0#8, 1#9, [(0x1000, 5#8)]) := by decide

/-! ## The bus -/

/-- Two writes and a read through the bus: R38's mask, R88's reserved slot, R96's dropped write. -/
theorem test_bus_mask :
    ((s0.hostWrite 0x30#17 .word 0xFFFFFFFF#32).hostRead 0x30#17 .word).resp = .data 3#32 := by decide
theorem test_bus_dropped :
    ({ s0 with seq := .busy 0#32 1 }.hostWrite 0x10#17 .word 7#32).statusWord = 0x5#32 := by decide

/-- R88's reserved slots and unmapped ranges at their ends. -/
theorem test_bus_reserved :
    [0x1C#17, 0x28#17, 0x2C#17, 0x3C#17, 0x58#17, 0x5C#17, 0x70#17, 0xFFC#17].map
      (fun a => (s0.hostRead a .word).resp) = List.replicate 8 (.data 0#32) := by decide +kernel
theorem test_bus_error :
    [0x2200#17, 0x3FFC#17, 0x6E30#17, 0x7FFC#17, 0xB9E8#17, 0xFFFC#17, 0x18000#17, 0x1FFFC#17, 0x3#17].map
      (fun a => (s0.hostRead a .word).resp) = List.replicate 9 .error := by decide +kernel

/-- R440, R34: a command accepted with a delay of one access runs after it. -/
theorem test_delay :
    (match Host.Core.run Sys2Proof.core 3 { s0 with
      bus := [.write 0x0C#17 .word 0#32, .read 0x08#17 .word], latency := [1] } with
      | .next t => some (t.resp, t.statusWord)
      | _ => none) = some (.data 0x1#32, 0x2#32) := by decide

/-- R420: held in reset, a CMD write starts nothing and sets no flag, and STATUS reads 0; released, the core takes the
next command. -/
theorem test_reset_held :
    (match Host.Core.run Sys2Proof.core 3 { s0 with
      ie := true, done := true, bus := [.rstAssert [(0x1000, 7#8)], .write 0x0C#17 .word 0#32, .read 0x08#17 .word] } with
      | .next t => some (t.resp, t.busy, t.ie, t.byteAt 0x1000)
      | _ => none) = some (.data 0x0#32, false, false, 7#8) := by decide

theorem test_reset_released :
    (match Host.Core.run Sys2Proof.core 4 { s0 with
      bus := [.rstAssert [], .rstRelease, .write 0x0C#17 .word 0#32] } with
      | .next t => some (t.rst, t.statusWord)
      | _ => none) = some (false, 0x2#32) := by decide

/-! ## Witnesses: the hypotheses of the statements, met together -/

theorem reset_inv : State.reset.Inv := by decide
theorem reset_grid : State.reset.GridResolved := by decide

/-- StepRunsTheCapturedCommandOrTheHost. -/
theorem witness_step_captured :
    (∃ (s : State) (w : Word) (n : Nat) (i : Instr),
      s.rst = false ∧ s.seq = .busy w n ∧ (n = 0 ∨ s.bus = []) ∧ decode w = .ok i) ∧
    (∃ (s : State) (w : Word) (n : Nat) (i : Instr),
      s.rst = false ∧ s.seq = .busy w (n + 1) ∧ s.bus = [] ∧ decode w = .ok i) ∧
    (∃ (s : State) (e : BusEvent) (rest : List BusEvent), s.rst = false ∧ s.seq = .idle ∧ s.bus = e :: rest) ∧
    (∃ (s : State) (w : Word) (n : Nat) (e : BusEvent) (rest : List BusEvent),
      s.rst = false ∧ s.seq = .busy w (n + 1) ∧ s.bus = e :: rest) :=
  ⟨⟨{ s0 with seq := .busy 0x20#32 0 }, 0x20#32, 0, .bbClear, by decide⟩,
   ⟨{ s0 with seq := .busy 0x20#32 1 }, 0x20#32, 0, .bbClear, by decide⟩,
   ⟨{ s0 with bus := [.write 0x0C#17 .word 0#32] }, .write 0x0C#17 .word 0#32, [], by decide⟩,
   ⟨{ s0 with seq := .busy 0x20#32 1, bus := [.read 0#17 .word] }, 0x20#32, 0, .read 0#17 .word, [], by decide⟩⟩

/-- IllegalWordChangesOnlyStatus: a reserved opcode, the lowest and highest reserved bit, and each unused field. -/
theorem witness_illegal_words :
    ∀ k : Fin 7,
      let w := [0x02#32, 0xFF#32, 0x00004012#32, 0x80000012#32, 0x00000100#32, 0x00000C14#32, 0x00003015#32][k]
      s0.rst = false ∧ ({ s0 with seq := .busy w 0 } : State).seq = .busy w 0 ∧ ¬ LegalWord w := by
  unfold LegalWord; decide +kernel

/-- CommandFinishesWithinItsDelay, with and without a reset input among the accesses to come. -/
theorem witness_delay :
    ∃ (s : State) (w : Word) (n : Nat), s.seq = .busy w n ∧ 0 < n ∧ s.rst = false ∧
      ∀ c, BusEvent.rstAssert c ∉ s.bus.take n :=
  ⟨{ s0 with seq := .busy 0x50#32 2, bus := [.read 8#17 .word, .read 8#17 .word, .rstAssert []] }, 0x50#32, 2, rfl,
    by decide, rfl, by intro c h; simp at h⟩

/-- BusyAccessesDropWritesAndDrawReads: the ends of the mapped ranges. -/
theorem witness_busy_mapped :
    ∀ k : Fin 8,
      let a := [0x10#17, 0x21FC#17, 0x4000#17, 0x6E2C#17, 0x8000#17, 0xB9E4#17, 0x10000#17, 0x17FFC#17][k]
      ({ s0 with seq := .busy 0#32 1 } : State).busy = true ∧ Mapped a ∧ a ≠ 0x0#17 ∧ a ≠ 0x4#17 ∧ a ≠ 0x8#17 ∧
        a ≠ 0xC#17 := by
  unfold Mapped; decide +kernel

/-- StoredWindowsReadBack and RegisterAccessesGoThroughTheirMasks. -/
theorem witness_windows :
    s0.seq = .idle ∧ s0.MemoryCanonical ∧ Mapped 0x1000#17 ∧ Mapped 0x17FFC#17 ∧ 0x1000 ≤ (0x1000#17).toNat ∧
      0x1000#17 ≠ 0x17FFC#17 := by
  unfold Mapped; decide +kernel

/-- CtrlEnablesTheInterrupt: each value written, and a completion. -/
theorem witness_interrupt :
    (∃ t, exec .nop s0 = .next t) ∧ (0x2#32).getLsbD 1 = true ∧ (0x0#32).getLsbD 0 = false ∧ s0.seq = .idle :=
  ⟨⟨_, rfl⟩, by decide⟩

/-- CommandsIgnoreTheFlags, for a command and for SRESET. -/
theorem witness_flags : (∃ t, exec .penalty tinyGrid = .next t) ∧ ∃ t, exec .sreset tinyGrid = .next t := by
  refine ⟨?_, ⟨_, rfl⟩⟩
  have h : exec .penalty tinyGrid = execPenalty tinyGrid := rfl
  rw [h]
  unfold execPenalty
  split_ifs <;> exact ⟨_, rfl⟩

/-- HardResetGivesTheStatedValues: a held reset before each kind of host action, mapped accesses at the ends of the
window and unmapped ones. -/
theorem witness_reset_held :
    (∀ k : Fin 6, let s := { s0 with rst := true, bus :=
        [[], [.read 0x8#17 .word], [.write 0xC#17 .word 0#32], [.write 0xC#17 .half 0#32], [.rstAssert []],
          [.rstRelease]][k] }
      s.rst = true ∧ ∃ t, step s = .next t) ∧
    Mapped 0xC#17 ∧ Mapped 0x17FFC#17 ∧ ¬ Mapped 0x2200#17 ∧ ¬ Mapped 0xE#17 :=
  ⟨fun _ => ⟨rfl, _, rfl⟩, by unfold Mapped; decide, by unfold Mapped; decide, by unfold Mapped; decide,
    by unfold Mapped; decide⟩

/-- HardResetGivesTheStatedValues: a canonical memory that is not empty. -/
theorem witness_canonical : Memory.wf [(0x1000, 5#8), (0x2000, 1#8), (0x17FFF, 0xFF#8)] = true := by decide

/-- GfExpCommand and GfLogCommand: every operand their clauses name. -/
theorem witness_gf :
    (args 0xFFFFFFFF 0 0).arg0 = 0xFFFFFFFF#32 ∧ (args 0x7FFFFFFF 0 0).arg0 = 0x7FFFFFFF#32 ∧
    1 ≤ (args 1 0 0).arg0.toInt ∧ (args 255 0 0).arg0.toInt ≤ 255 ∧ (args 0 0 0).arg0.toInt < 1 ∧
    255 < (args 256 0 0).arg0.toInt ∧ (args 0x80000000 0 0).arg0 = 0x80000000#32 := by decide

/-- PolyMulConvolves: a product of three coefficients, and a register of 256 coefficients with leading zeros. -/
theorem witness_polyMul :
    ∀ s ∈ [polys [1#8, 1#8] [1#8, 2#8] 0, { polys [] [7#8] 0 with mem := [(0x13FC, 5#8), (0x1400, 7#8)], plen0 := 256#9 }],
      s.MemoryCanonical ∧ 1 ≤ (s.plen .p0).toNat ∧ (s.plen .p0).toNat ≤ 256 ∧ 1 ≤ (s.plen .p1).toNat ∧
      (s.plen .p1).toNat ≤ 256 ∧ (∀ x ∈ s.polyOperand .p0, x ≠ 0#8) ∧ (∀ x ∈ s.polyOperand .p1, x ≠ 0#8) ∧
      (s.polyOperand .p0).length + (s.polyOperand .p1).length - 1 ≤ 256 := by decide +kernel

/-- PR0 holds 256 ones, PR1 holds [1]. -/
def longest : State :=
  { polys [] [1#8] 0 with
    mem := (List.range 256).map (fun i => (0x1000 + 4 * i, 1#8)) ++ [(0x1400, 1#8)], plen0 := 256#9 }

/-- The same at the longest product, 256 coefficients. -/
theorem witness_polyMul_longest :
    longest.MemoryCanonical ∧ longest.polyOperand .p0 = List.replicate 256 1#8 ∧ longest.polyOperand .p1 = [1#8] := by
  decide +kernel

/-- PolyMulRaisesInOrder: lengths 0 and 257, a product of 257 coefficients, a zero operand. -/
theorem witness_polyMul_errors :
    ¬ (1 ≤ ((polys [] [1#8] 0).plen .p0).toNat ∧ ((polys [] [1#8] 0).plen .p0).toNat ≤ 256) ∧
    ¬ (1 ≤ ({ s0 with plen1 := 257#9 }.plen .p1).toNat ∧ ({ s0 with plen1 := 257#9 }.plen .p1).toNat ≤ 256) ∧
    (let s := { polys [] [] 0 with mem := [(0x1000, 1#8), (0x1400, 1#8)], plen0 := 129#9, plen1 := 129#9 }
     (s.polyOperand .p0).length + (s.polyOperand .p1).length - 1 = 257) ∧
    0#8 ∈ (polys [0#8] [1#8] 0).polyOperand .p0 ∧
    0#8 ∈ (polys [1#8] [1#8, 0#8, 1#8] 0).polyOperand .p1 := by decide +kernel

/-- PolynomialRemainder and RemainderLeavesAMultiple: a shorter dividend, a constant divisor, an interior zero, a
division; and its result. -/
theorem witness_remainder :
    (norm [5#8] = [5#8] ∧ [5#8].length < [1#8, 1#8].length) ∧
    (norm [1#8, 2#8] = [1#8, 2#8] ∧ norm [3#8] = [3#8] ∧ [3#8].length ≤ [1#8, 2#8].length) ∧
    (0#8 ∈ [1#8, 0#8, 1#8] ∧ [1#8, 0#8, 1#8].length ≤ [1#8, 2#8, 3#8].length) ∧
    (2 ≤ [1#8, 3#8, 2#8].length ∧ (∀ x ∈ [1#8, 3#8, 2#8], x ≠ 0#8) ∧
      pmod [1#8, 2#8, 3#8, 4#8] [1#8, 3#8, 2#8] = .ok [2#8, 6#8]) := by decide

/-- PolyModCommand: each clause's operands. -/
theorem witness_polyMod :
    (polys [5#8] [1#8, 1#8] 0).MemoryCanonical ∧
    ((polys [5#8] [1#8, 1#8] 0).polyOperand .p0).length < ((polys [5#8] [1#8, 1#8] 0).polyOperand .p1).length ∧
    ((polys [1#8, 2#8] [3#8] 0).polyOperand .p1).length = 1 ∧
    0#8 ∈ (polys [1#8, 2#8, 3#8] [1#8, 0#8, 1#8] 0).polyOperand .p1 ∧
    2 ≤ ((polys [1#8, 2#8, 3#8, 4#8] [1#8, 3#8, 2#8] 0).polyOperand .p1).length ∧
    (∀ x ∈ (polys [1#8, 2#8, 3#8, 4#8] [1#8, 3#8, 2#8] 0).polyOperand .p1, x ≠ 0#8) := by decide

/-- PolyGenCommand and RsEccCommand: e at the ends of each clause. -/
theorem witness_degrees :
    (args 255 0 0).arg0.toNat ≤ 255 ∧ (args 0 0 0).arg0.toNat ≤ 255 ∧ 255 < (args 256 0 0).arg0.toNat ∧
    (args 0 0 0).MemoryCanonical ∧ (args 0 0 0).arg0 = 0#32 ∧
    1 ≤ (polys [1#8] [1#8] 1).arg0.toNat ∧ (polys [1#8] [1#8] 254).arg0.toNat ≤ 254 ∧
    (polys [1#8] [1#8] 255).arg0.toNat = 255 ∧ (∃ x ∈ (polys [1#8] [1#8] 255).polyRaw .p1, x ≠ 0#8) ∧
    (∀ x ∈ (polys [1#8] [0#8, 0#8] 255).polyRaw .p1, x = 0#8) ∧
    1 ≤ ((polys [1#8] [1#8] 1).plen .p1).toNat ∧ ((polys [1#8] [1#8] 1).plen .p1).toNat ≤ 256 := by decide

/-- BbPutCommand: widths 0, 32 and 33, an exactly full buffer and one bit too many. -/
theorem witness_bbPut :
    (args 5 0 0).arg1.toNat ≤ 32 ∧ (args 5 32 0).arg1.toNat ≤ 32 ∧ 32 < (args 5 33 0).arg1.toNat ∧
    ({ args 5 32 0 with bb := List.replicate 23616 false }).bb.length + (args 5 32 0).arg1.toNat ≤ 23648 ∧
    23648 < ({ args 5 1 0 with bb := List.replicate 23648 false }).bb.length + (args 5 1 0).arg1.toNat := by
  refine ⟨by decide, by decide, by decide, ?_, ?_⟩
  · have h : (args 5 32 0).arg1.toNat = 32 := by decide
    simp only [h, List.length_replicate, Nat.reduceAdd, Nat.le_refl]
  · have h : (args 5 1 0).arg1.toNat = 1 := by decide
    simp only [h, List.length_replicate, Nat.reduceAdd, Nat.reduceLT]

/-- PayloadValuesFitTheirWidths: valid segments of the four modes at the ends of their sets. -/
theorem witness_valid :
    ∀ g ∈ [(⟨.numeric, [0x30, 0x39]⟩ : Segment), ⟨.alphanumeric, [0x3A, 0x3A]⟩, ⟨.byte, [0, 0x7FFFFFFF]⟩,
      ⟨.kanji, [0x8140, 0x9FFC, 0xE040, 0xEBBF]⟩], g.Valid := by
  unfold Segment.Valid; decide

/-- PayloadValuesFitTheirWidths: a last group of each length, a pair and a single, and each UTF-8 length at its ends. -/
theorem witness_items :
    (⟨.numeric, [0x30, 0x31, 0x32, 0x39]⟩ : Segment).items = [(12, 10), (9, 4)] ∧
    (⟨.numeric, [0x39, 0x38]⟩ : Segment).items = [(98, 7)] ∧
    (⟨.alphanumeric, [0x41, 0x43, 0x2D]⟩ : Segment).items = [(462, 11), (41, 6)] ∧
    (⟨.kanji, [0x8140, 0xEBBF]⟩ : Segment).items = [(0, 13), (0x1FFF, 13)] ∧
    [0x7F, 0x80, 0x7FF, 0x800, 0xFFFF, 0x10000, 0x1FFFFF, 0x200000, 0x3FFFFFF, 0x4000000, 0x7FFFFFFF].map utf8Tails =
      [0, 1, 1, 2, 2, 3, 3, 4, 4, 5, 5] := by decide

/-- SegWriteCommand: a well-formed descriptor with valid text, a fitting count and room. -/
theorem witness_segWrite :
    let s := oneSegment 1#8 [0x31#32, 0x32#32] 1
    let g : Segment := ⟨.numeric, s.segChars s.arg0.toNat⟩
    s.arg0.toNat < 64 ∧ 1 ≤ s.arg1.toNat ∧ s.arg1.toNat ≤ 40 ∧ s.segMode s.arg0.toNat = Mode.indicator .numeric ∧
      s.segStart s.arg0.toNat + s.segLen s.arg0.toNat ≤ 8192 ∧ g.Valid ∧
      g.count < 2 ^ lenw .numeric s.arg1.toNat ∧ s.bb.length + g.bitLength s.arg1.toNat ≤ 23648 := by
  unfold Segment.Valid; decide

/-- SegWriteRaisesInOrder: each BadArgument clause, an invalid character at index 1, a count that does not fit, a full
buffer. -/
theorem witness_segWrite_bad :
    64 ≤ (args 64 1 0).arg0.toNat ∧ (args 0 0 0).arg1.toNat < 1 ∧ 40 < (args 0 41 0).arg1.toNat ∧
    (∀ mode : Mode, (oneSegment 3#8 [] 1).segMode 0 ≠ Mode.indicator mode) ∧
    (let s := { s0 with mem := Memory.writeWord (Memory.write [] 0x2000 1#8) 0x2004 0x00012000#32 }
     8192 < s.segStart 0 + s.segLen 0 ∧ s.segStart 0 + s.segLen 0 = 8193) :=
  ⟨by decide, by decide, by decide, by intro mode; cases mode <;> decide, by decide⟩

theorem witness_segWrite_invalid :
    let s := oneSegment 2#8 [0x41#32, 0x61#32] 1
    s.segMode 0 = Mode.indicator .alphanumeric ∧ s.segChars 0 = [0x41, 0x61] ∧ validChar .alphanumeric 0x61 = false ∧
      validChar .alphanumeric 0x41 = true := by decide

theorem witness_segWrite_count :
    let s := oneSegment 4#8 (List.replicate 43 0x7FFFFFFF#32) 9
    s.segMode 0 = Mode.indicator .byte ∧ s.segStart 0 + s.segLen 0 ≤ 8192 ∧
      (s.segChars 0).all (validChar .byte) = true ∧
      2 ^ lenw .byte s.arg1.toNat ≤ (⟨.byte, s.segChars 0⟩ : Segment).count := by decide +kernel

theorem witness_segWrite_full :
    let s := { oneSegment 1#8 [0x31#32] 1 with bb := List.replicate 23631 false }
    s.segChars 0 = [0x31] ∧ (⟨.numeric, [0x31]⟩ : Segment).count < 2 ^ lenw .numeric 1 ∧
      23648 < s.bb.length + (⟨.numeric, [0x31]⟩ : Segment).bitLength 1 := by
  have h : (⟨.numeric, [0x31]⟩ : Segment).bitLength 1 = 18 := by decide
  have hc : (oneSegment 1#8 [0x31#32] 1).segChars 0 = [0x31] := by decide
  refine ⟨hc, by decide, ?_⟩
  simp only [h, List.length_replicate, Nat.reduceAdd, Nat.reduceLT]

/-- BuildCommand, BchCommands, MaskBitCommand: operands at the ends of each clause. -/
theorem witness_ranges :
    (args 7 1 40).arg2.toNat ≤ 40 ∧ 1 ≤ (args 7 1 1).arg2.toNat ∧ (args 7 1 40).arg1.toNat ≤ 1 ∧
    (args 7 1 40).arg0.toNat ≤ 7 ∧ (args 7 1 40).cwLen.toNat ≤ 3706 ∧ 7 < (args 8 1 40).arg0.toNat ∧
    1 < (args 0 2 1).arg1.toNat ∧ 40 < (args 0 0 41).arg2.toNat ∧ (args 0 0 0).arg2.toNat < 1 ∧
    3706 < ({ args 0 0 1 with cwLen := 3707#12 }).cwLen.toNat ∧
    ({ args 0 0 1 with cwLen := 3706#12 }).cwLen.toNat ≤ 3706 ∧
    (args 31 0 0).arg0.toNat ≤ 31 ∧ 31 < (args 32 0 0).arg0.toNat ∧ (args 63 0 0).arg0.toNat ≤ 63 ∧
    63 < (args 64 0 0).arg0.toNat ∧ (args 7 255 255).arg1.toNat ≤ 255 ∧ 255 < (args 7 0 256).arg2.toNat := by decide

/-- FunctionCellsSurviveDataPlacement: a function cell and a data cell of version 1 (the map of R298). -/
theorem witness_cells :
    (structuralGrid 1 0#2 0 false).cell 0 0 ≠ .unset ∧ (structuralGrid 1 0#2 0 false).cell 20 20 = .unset := by
  decide +kernel

/-- The same: the first place visited, and the place after the skipped column 6, of version 1. -/
theorem witness_placement :
    (placementOrder 21)[0]? = some (20, 20) ∧ (placementOrder 21)[1]? = some (20, 19) ∧
    (placementOrder 21)[2 * (21 * 6 + 20)]? = some (0, 8) ∧ (placementOrder 21)[2 * (21 * 7)]? = some (0, 5) ∧
    (placementOrder 21)[2 * (21 * 9 + 20) + 1]? = some (20, 0) := by decide +kernel

/-- FindersAreIdenticalInEveryGrid: a centre that is placed and the three that are skipped, of version 2, the ends of
the timing patterns, and a function cell beside a data cell. -/
theorem witness_patterns :
    alignpos 2 = [6, 18] ∧ (18, 18) ∉ skippedCentres 2 ∧ (6, 6) ∈ skippedCentres 2 ∧ (6, 18) ∈ skippedCentres 2 ∧
    (18, 6) ∈ skippedCentres 2 ∧ 8 ≤ 4 * 1 + 8 ∧ FunctionCell 2 16 16 ∧ ¬ FunctionCell 2 15 16 ∧
    FunctionCell 1 13 8 ∧ ¬ FunctionCell 1 12 8 := by
  refine ⟨by decide, by decide, by decide, by decide, by decide, by decide, ?_, ?_, ?_, ?_⟩ <;> decide

/-- PenaltyRulesCountRunsBlocksAndFinders: an n × n grid. -/
theorem witness_square : tinyGrid.grid.length = 2 ∧ ∀ row ∈ tinyGrid.grid, row.length = 2 := by decide

/-- PenaltyCommand and IsDarkCommand: a held grid that is resolved, its first and last places, the places just outside,
and no grid. -/
theorem witness_grid :
    tinyGrid.gridState ≠ .empty ∧ tinyGrid.GridResolved ∧ tinyGrid.moduleCount.toNat ≤ 177 ∧ s0.gridState = .empty ∧
    0 ≤ (0#32).toInt ∧ (1#32).toInt < tinyGrid.moduleCount.toNat ∧
    (tinyGrid.moduleCount.toNat : Int) ≤ (2#32).toInt ∧ (0xFFFFFFFF#32).toInt < 0 := by decide

/-- AssemblerFillsTheCapacity: nothing to write, and two Byte segments that fill 1-L exactly. -/
theorem witness_assembler :
    totalBits [] 40 ≤ capbits 40 .h ∧
    totalBits (List.replicate 2 ⟨.byte, List.replicate 5 0x41⟩) 1 = capbits 1 .l := by decide +kernel

/-- The same: the zero bits when the terminator fits exactly, when it does not (V-A2), at a full buffer, and the most. -/
theorem witness_padding :
    paddingZeros 148 152 = 4 ∧ paddingZeros 151 152 = 1 ∧ paddingZeros 152 152 = 0 ∧ paddingZeros 133 152 = 11 := by
  decide

/-- InterleavePlacesEveryCodeword. -/
theorem witness_interleave :
    let blocks : List (List Byte) := [[1#8, 2#8], [3#8, 4#8, 5#8]]
    blocks[1]? = some [3#8, 4#8, 5#8] ∧ [3#8, 4#8, 5#8][2]? = some 5#8 ∧
      columns blocks = [1#8, 3#8, 2#8, 4#8, 5#8] := by decide

/-- EncodeCommits: one digit, version selected. -/
theorem witness_encode_one :
    let s := oneSegment 1#8 [0x31#32] 0
    let segs : List Segment := [⟨.numeric, [0x31]⟩]
    s.MemoryCanonical ∧ s.segCount.toNat ≤ 64 ∧ s.cfgVersion.toNat ≤ 40 ∧ s.HasSegments segs ∧
      (∀ g ∈ segs, g.Valid) ∧ Level.bits .m = s.cfgEcl ∧ VersionChosen s.cfgVersion.toNat segs .m 1 ∧
      totalBits segs 1 ≤ capbits 1 .m := by
  refine ⟨by decide, by decide, by decide, ⟨by decide, ?_⟩, ?_, by decide, .inr ⟨by decide, by decide, by decide,
    by decide, ?_⟩, by decide⟩
  · intro k g h
    match k, h with
    | 0, h => simp only [List.getElem?_cons_zero, Option.some.injEq] at h; subst h; decide
    | k + 1, h => simp at h
  · unfold Segment.Valid; decide
  · intro u hu hu'; omega

/-- EncodeCommits: 64 empty segments at the fixed version 40. -/
theorem witness_encode_most :
    let s := { s0 with mem := (List.range 64).map (fun k => (0x2000 + 8 * k, 1#8)), segCount := 64#7, cfgVersion := 40#6 }
    let segs : List Segment := List.replicate 64 ⟨.numeric, []⟩
    s.MemoryCanonical ∧ s.segCount.toNat ≤ 64 ∧ s.cfgVersion.toNat ≤ 40 ∧ s.HasSegments segs ∧
      (∀ g ∈ segs, g.Valid) ∧ VersionChosen s.cfgVersion.toNat segs .m 40 ∧ totalBits segs 40 ≤ capbits 40 .m := by
  refine ⟨by decide +kernel, by decide, by decide, ⟨by decide, ?_⟩, ?_, .inl ⟨by decide, by decide⟩, by decide +kernel⟩
  · intro k g h
    have hk : k < 64 := by
      by_contra hc
      simp [hc] at h
    simp only [List.getElem?_replicate, hk, if_true, Option.some.injEq] at h
    subst h
    revert hk
    revert k
    decide +kernel
  · intro g hg
    rw [List.eq_of_mem_replicate hg]
    simp [Segment.Valid]

/-- EncodeErrorsDiscardTheGrid: a bad SEG_COUNT, a bad CFG_VERSION, a malformed second descriptor, an invalid character
at index 1 of segment 0, a fixed version that does not fit. -/
theorem witness_encode_errors :
    64 < ({ s0 with segCount := 65#7 }).segCount.toNat ∧ 40 < ({ s0 with cfgVersion := 41#6 }).cfgVersion.toNat ∧
    (let s := { oneSegment 1#8 [0x31#32] 0 with segCount := 2#7 }
     1 < s.segCount.toNat ∧ (∀ mode : Mode, s.segMode 1 ≠ Mode.indicator mode) ∧
       s.segMode 0 = Mode.indicator .numeric ∧ s.segStart 0 + s.segLen 0 ≤ 8192) ∧
    (let s := oneSegment 2#8 [0x41#32, 0x61#32] 0
     s.segMode 0 = Mode.indicator .alphanumeric ∧ s.segStart 0 + s.segLen 0 ≤ 8192 ∧ s.segChars 0 = [0x41, 0x61] ∧
       validChar .alphanumeric 0x41 = true ∧ validChar .alphanumeric 0x61 = false) ∧
    (let s := { oneSegment 1#8 (List.replicate 44 0x31#32) 0 with cfgVersion := 1#6 }
     s.segChars 0 = List.replicate 44 0x31 ∧
       capbits 1 .m < totalBits [⟨.numeric, List.replicate 44 0x31⟩] s.cfgVersion.toNat) :=
  ⟨by decide, by decide, ⟨by decide, by intro mode; cases mode <;> decide, by decide, by decide⟩, by decide,
    by decide +kernel⟩

/-- 1280 NUL characters in one Byte segment, level H. -/
def longText : State :=
  { s0 with mem := [(0x2000, 4#8), (0x2007, 5#8)], segCount := 1#7, cfgEcl := 0b10#2 }

theorem longText_read (x : Nat) (hx : 0x10000 ≤ x) : longText.mem.read x = 0#8 := by
  show Memory.read [(0x2000, 4#8), (0x2007, 5#8)] x = 0#8
  simp only [Memory.read]
  split_ifs <;> first | omega | rfl

theorem longText_chars : longText.segChars 0 = List.replicate 1280 0 := by
  have hl : longText.segLen 0 = 1280 := by decide
  have hs : longText.segStart 0 = 0 := by decide
  unfold State.segChars
  rw [hl, hs, List.eq_replicate_iff]
  refine ⟨by rw [List.length_map, List.length_range], ?_⟩
  intro x hx
  obtain ⟨i, -, rfl⟩ := List.mem_map.mp hx
  unfold State.textWord Memory.readWord textAddr
  rw [longText_read _ (by omega), longText_read _ (by omega), longText_read _ (by omega), longText_read _ (by omega)]
  rfl

/-- EncodeErrorsDiscardTheGrid: 1280 NUL characters fit no version at level H. -/
theorem witness_encode_no_fit :
    let s := longText
    let segs : List Segment := [⟨.byte, List.replicate 1280 0⟩]
    s.HasSegments segs ∧ (∀ g ∈ segs, g.Valid) ∧ Level.bits .h = s.cfgEcl ∧ s.cfgVersion.toNat = 0 ∧
      ∀ v, 1 ≤ v → v ≤ 40 → capbits v .h < totalBits segs v := by
  refine ⟨⟨by decide, ?_⟩, ?_, by decide, by decide, ?_⟩
  · intro k g h
    match k, h with
    | 0, h =>
      rw [List.getElem?_cons_zero] at h
      cases h
      exact ⟨by decide, by decide, longText_chars.symm⟩
    | k + 1, h =>
      rw [List.getElem?_cons_succ, List.getElem?_nil] at h
      cases h
  · intro g hg
    rw [List.mem_singleton] at hg
    subst hg
    intro c hc
    rw [List.eq_of_mem_replicate hc]
    decide
  · have ht : ∀ v, totalBits [⟨.byte, List.replicate 1280 0⟩] v = 4 + lenw .byte v + 8 * 1283 := by
      intro v
      simp only [totalBits, Segment.bitLength, Segment.payloadBits, Segment.count, List.map_cons, List.map_nil,
        List.sum_cons, List.sum_nil, List.map_replicate, List.sum_replicate]
      rfl
    have hc : ∀ v, v ≤ 40 → capbits v .h < 4 + 8 + 8 * 1283 := by decide +kernel
    intro v _ h40
    rw [ht]
    have hv := hc v h40
    have hl : 8 ≤ lenw .byte v := by
      unfold lenw
      dsimp only
      split_ifs <;> omega
    omega

/-- FailingCommandsChangeOnlyWhatTheirErrorNames: a failing command, SEG_WRITE with InvalidCharacter, a failing
ENCODE. -/
theorem witness_failing :
    (∃ t, exec .isDark s0 = .next t ∧ t.err ≠ .none) ∧
    (∃ t, exec .segWrite (oneSegment 2#8 [0x61#32] 1) = .next t ∧ t.err = .invalidCharacter) ∧
    (∃ t, exec .encode { s0 with segCount := 65#7 } = .next t ∧ t.err = .badArgument) :=
  ⟨⟨_, rfl, by decide⟩, ⟨_, rfl, by decide⟩, ⟨_, rfl, by decide⟩⟩

/-- CommandsKeepWhatTheyDoNotWrite, CommandsRaiseOnlyTheirErrors, StepKeepsTheInvariant, StepKeepsTheGridResolved: a
canonical state with a held grid, and its next state. -/
theorem witness_steps :
    tinyGrid.MemoryCanonical ∧ (∃ t, exec .bbClear tinyGrid = .next t) ∧ s0.Inv ∧ (∃ t, step s0 = .next t) ∧
      tinyGrid.GridResolved ∧ ∃ t, step tinyGrid = .next t :=
  ⟨by decide, ⟨_, rfl⟩, by decide, ⟨_, rfl⟩, by decide, ⟨_, rfl⟩⟩

end Sys2Proof.Tests
end

section
/-! SUPPORT. CTRL and `irq` (10_state.md R33, R54): every command ends in the cycle's completion, and the words of the
host map the interrupt turns on. -/

namespace Sys2Proof.Machine

/-! ## Every command ends in `complete` (60_exceptions.md R381, R394) -/

/-- An outcome that is the completion of a command, with or without an error. -/
def Completes (o : Host.Outcome State Fault Refusal) : Prop := ∃ u e, o = .next (State.complete u e)

theorem finish_completes (s : State) : Completes (finish s) := ⟨s, .none, rfl⟩

theorem raise_completes (e : ErrCode) (s : State) : Completes (raise e s) := ⟨s, e, rfl⟩

theorem finishPoly_completes (d : PReg) (r : Except ErrCode (List Byte)) (s : State) :
    Completes (finishPoly d r s) := by
  cases r with
  | error e => exact raise_completes e s
  | ok p => exact finish_completes (s.writePoly d p)

/-- A check that raises an error completes when the rest of the command does. -/
theorem Completes.raise_or {c : Prop} [Decidable c] {e : ErrCode} {s : State}
    {o : Host.Outcome State Fault Refusal} (h : Completes o) : Completes (if c then raise e s else o) := by
  split
  · exact raise_completes e s
  · exact h

theorem execGfLog_completes (s : State) : Completes (execGfLog s) := by
  unfold execGfLog
  cases gfLog (argS s.arg0) with
  | error e => exact raise_completes e s
  | ok n => exact finish_completes _

theorem execSegWrite_completes (s : State) : Completes (execSegWrite s) := by
  unfold execSegWrite
  cases s.segWriteOperand with
  | none => exact raise_completes _ _
  | some g =>
    dsimp only
    cases g.firstBad with
    | some j => exact raise_completes _ _
    | none => exact .raise_or (.raise_or (finish_completes _))

theorem execEncode_completes (s : State) : Completes (execEncode s) := by
  unfold execEncode
  cases encodeSymbol s with
  | error e => exact raise_completes _ _
  | ok e => exact finish_completes _

theorem exec_completes (i : Instr) (s : State) : Completes (exec i s) := by
  cases i with
  | nop => exact finish_completes _
  | sreset => exact finish_completes _
  | gfExp => exact finish_completes _
  | gfLog => exact execGfLog_completes s
  | polyMul d a b => exact finishPoly_completes d _ s
  | polyMod d a b => exact finishPoly_completes d _ s
  | polyGen d => exact finishPoly_completes d _ s
  | rsEcc d a => exact finishPoly_completes d _ s
  | bbClear => exact finish_completes _
  | bbPut => exact .raise_or (.raise_or (finish_completes _))
  | segWrite => exact execSegWrite_completes s
  | build => exact .raise_or (.raise_or (finish_completes _))
  | bchFmt => exact .raise_or (finish_completes _)
  | bchVer => exact .raise_or (finish_completes _)
  | maskBit => exact .raise_or (.raise_or (finish_completes _))
  | penalty => exact .raise_or (finish_completes _)
  | encode => exact execEncode_completes s
  | isDark => exact .raise_or (finish_completes _)

/-- A completion sets DONE, so the interrupt is then IE (R54). -/
theorem Completes.irq_eq_ie {t : State} (h : Completes (.next t)) : t.irq = t.ie := by
  obtain ⟨u, e, h⟩ := h
  injection h with h
  rw [h, State.complete_irq, State.complete_ie]

/-! ## The accesses to CTRL, STATUS and CMD (20_memory.md R86, R96) -/

theorem busLoc_ctrl : busLoc 0x00004#17 .word = some .ctrl := by decide

theorem busLoc_status : busLoc 0x00008#17 .word = some .status := by decide

theorem busLoc_cmd : busLoc 0x0000C#17 .word = some .cmd := by decide

/-- A location that a write reaches while BUSY is written in every state. -/
theorem State.hostWrite_of_writableBusy {a : Addr} {w : Width} {l : Loc} (h : busLoc a w = some l)
    (hl : l.writableBusy = true) (s : State) (v : Word) : s.hostWrite a w v = (s.writeLoc v l).respond .ok := by
  simp [State.hostWrite, h, hl]

/-- A location that a read returns truly while BUSY is read in every state. -/
theorem State.hostRead_of_readableBusy {a : Addr} {w : Width} {l : Loc} (h : busLoc a w = some l)
    (hl : l.readableBusy = true) (s : State) : s.hostRead a w = s.respond (.data (s.readLoc l)) := by
  simp [State.hostRead, h, hl]

/-- Every mapped location of an idle core is written. -/
theorem State.hostWrite_of_idle {a : Addr} {w : Width} {l : Loc} (h : busLoc a w = some l) {s : State}
    (hs : s.seq = .idle) (v : Word) : s.hostWrite a w v = (s.writeLoc v l).respond .ok := by
  simp [State.hostWrite, h, State.busy, hs]

theorem State.hostRead_ctrl (s : State) : s.hostRead 0x00004#17 .word = s.respond (.data s.ctrlWord) :=
  s.hostRead_of_readableBusy busLoc_ctrl rfl

theorem State.hostWrite_ctrl (s : State) (v : Word) :
    s.hostWrite 0x00004#17 .word v = (s.setCtrl v).respond .ok :=
  s.hostWrite_of_writableBusy busLoc_ctrl rfl v

theorem State.hostWrite_status (s : State) (v : Word) :
    s.hostWrite 0x00008#17 .word v = (s.clearFlags v).respond .ok :=
  s.hostWrite_of_writableBusy busLoc_status rfl v

theorem State.hostWrite_cmd_of_idle {s : State} (hs : s.seq = .idle) (v : Word) :
    s.hostWrite 0x0000C#17 .word v = (s.accept v).respond .ok :=
  State.hostWrite_of_idle busLoc_cmd hs v

theorem State.ctrlWord_eq (s : State) : s.ctrlWord = if s.ie then 1#32 else 0#32 := by
  unfold State.ctrlWord
  cases s.ie <;> rfl

/-! ## When the interrupt is low (R54) -/

theorem State.irq_of_done_eq_false {s : State} (h : s.done = false) : s.irq = false := by
  simp [State.irq, h]

theorem State.irq_of_ie_eq_false {s : State} (h : s.ie = false) : s.irq = false := by
  simp [State.irq, h]

/-- Settles O13: a command ends in `complete`, which sets DONE; STATUS and CTRL are reached busy or not, and each of the
three writes clears DONE or IE. -/
theorem ctrlEnablesTheInterrupt : Obligations.CtrlEnablesTheInterrupt := by
  unfold Obligations.CtrlEnablesTheInterrupt
  refine ⟨fun s => ⟨?_, fun v => ?_, rfl, fun i t h => ?_, fun v hv => ?_, fun v hv => ?_, fun v hs => ?_⟩,
    rfl, rfl, rfl⟩
  · rw [State.hostRead_ctrl, State.ctrlWord_eq, State.respond]
  · rw [State.hostWrite_ctrl, State.respond, State.setCtrl]
  · exact Completes.irq_eq_ie (h ▸ exec_completes i s)
  · rw [State.hostWrite_status]
    exact State.irq_of_done_eq_false (by simp [hv])
  · rw [State.hostWrite_ctrl]
    exact State.irq_of_ie_eq_false hv
  · rw [State.hostWrite_cmd_of_idle hs]
    exact State.irq_of_done_eq_false rfl

end Sys2Proof.Machine
end

section
/-! SUPPORT. GF_EXP and GF_LOG (40_gf_poly.md R145, R146): the EXP table holds the powers of α, the LOG table their
exponents, and each command writes its result to RES0 or raises its error. -/

namespace Sys2Proof.Machine

/-! ## The tables hold the powers of α (R140, R141) -/

theorem romAt_expRom_succ : ∀ n < 254, romAt expRom (n + 1) = gfDouble (romAt expRom n) := by decide +kernel

theorem romAt_expRom_eq_iterate {n : Nat} (hn : n < 255) : romAt expRom n = gfDouble^[n] 1#8 := by
  induction n with
  | zero => rfl
  | succ n ih => rw [romAt_expRom_succ n (by omega), ih (by omega), Function.iterate_succ_apply']

/-- EXP undoes LOG on every nonzero byte. -/
theorem romAt_expRom_romAt_logRom : ∀ n < 256, 1 ≤ n →
    (romAt logRom n).toNat < 255 ∧ (romAt expRom (romAt logRom n).toNat).toNat = n := by decide +kernel

/-- The exponent n mod 255 is an index of the table, so `exp(n)` is that many doublings (R143). -/
theorem gfExp_eq_iterate (n : Int) : gfExp n = gfDouble^[(n % 255).toNat] 1#8 :=
  romAt_expRom_eq_iterate (by omega)

theorem gfLog_of_lt_one {n : Int} (h : n < 1) : gfLog n = .error .gfLogZero := if_pos h

theorem gfLog_of_gt {n : Int} (h : 255 < n) : gfLog n = .error .badArgument := by
  rw [gfLog, if_neg (by omega), if_pos h]

/-- On 1..255 the log is the exponent below 255 whose power of α is n (R141, R144). -/
theorem exists_gfLog_eq_of_mem_range {n : Int} (h1 : 1 ≤ n) (h255 : n ≤ 255) :
    ∃ l : Nat, l ≤ 254 ∧ ((gfDouble^[l] 1#8).toNat : Int) = n ∧ gfLog n = .ok l := by
  obtain ⟨hl, hexp⟩ := romAt_expRom_romAt_logRom n.toNat (by omega) (by omega)
  rw [romAt_expRom_eq_iterate hl] at hexp
  exact ⟨(romAt logRom n.toNat).toNat, by omega, by omega, by rw [gfLog, if_neg (by omega), if_neg (by omega)]⟩

/-! ## The two commands -/

theorem exec_gfExp (s : State) : exec .gfExp s =
    .next { s with res0 := (gfExp s.arg0.toInt).setWidth 32, seq := .idle, done := true, err := .none } := by
  rw [← BitVec.ofNat_toNat]
  rfl

theorem exec_gfLog_of_ok {s : State} {l : Nat} (h : gfLog s.arg0.toInt = .ok l) :
    exec .gfLog s = .next { s with res0 := BitVec.ofNat 32 l, seq := .idle, done := true, err := .none } := by
  change execGfLog s = _
  rw [execGfLog, h]
  rfl

theorem exec_gfLog_of_error {s : State} {e : ErrCode} (h : gfLog s.arg0.toInt = .error e) :
    exec .gfLog s = .next { s with seq := .idle, done := true, err := e } := by
  change execGfLog s = _
  rw [execGfLog, h]
  rfl

/-- The corner cases of R145: operand and result. -/
theorem gfExp_cornerCases : ∀ p ∈ [(0x00000000#32, 0x01#32), (0x000000FF#32, 0x01#32), (0xFFFFFFFF#32, 0x8E#32),
    (0x7FFFFFFF#32, 0xCC#32), (0x80000000#32, 0xCC#32), (0x00000008#32, 0x1D#32)],
    (gfExp p.1.toInt).setWidth 32 = p.2 := by
  simp only [List.forall_mem_cons, List.not_mem_nil, IsEmpty.forall_iff, implies_true, and_true]
  decide

/-- The corner cases of R146 without an error: operand and result. -/
theorem gfLog_cornerCases : ∀ p ∈ [(0x01#32, 0#32), (0x02#32, 1#32), (0x8E#32, 254#32), (0x1D#32, 8#32)],
    gfLog p.1.toInt = .ok p.2.toNat := by
  simp only [List.forall_mem_cons, List.not_mem_nil, IsEmpty.forall_iff, implies_true, and_true]
  decide

/-- Settles O18: GF_EXP reads the EXP table at ARG0 mod 255, and the table holds the powers of α. -/
theorem gfExpCommand : Obligations.GfExpCommand := by
  unfold Obligations.GfExpCommand
  refine ⟨rfl, fun s => ?_, fun p hp s hs => ?_⟩
  · rw [exec_gfExp, gfExp_eq_iterate]
  · rw [exec_gfExp, hs, gfExp_cornerCases p hp]

/-- Settles O19: GF_LOG answers as `log` does on the three ranges of ARG0, and EXP undoes LOG on 1..255. -/
theorem gfLogCommand : Obligations.GfLogCommand := by
  unfold Obligations.GfLogCommand
  refine ⟨rfl, fun s => ⟨fun h1 h255 => ?_, fun h => ?_, fun h => ?_⟩, fun p hp s hs => ?_, fun s hs => ?_⟩
  · obtain ⟨l, hl, hpow, hlog⟩ := exists_gfLog_eq_of_mem_range h1 h255
    exact ⟨l, hl, hpow, exec_gfLog_of_ok hlog⟩
  · exact exec_gfLog_of_error (gfLog_of_lt_one h)
  · exact exec_gfLog_of_error (gfLog_of_gt h)
  · rw [exec_gfLog_of_ok (hs ▸ gfLog_cornerCases p hp), BitVec.ofNat_toNat, BitVec.setWidth_eq]
  · exact exec_gfLog_of_error (gfLog_of_lt_one (hs ▸ by decide))

end Sys2Proof.Machine
end

section
/-! SUPPORT. BB_CLEAR and BB_PUT (42_segments.md R211, R212): what a read of the BB window of an idle core returns, and
the bits each command leaves in the buffer. -/

namespace Sys2Proof.Machine

/-! ## The BB window (10_state.md R50, 20_memory.md R86, R90) -/

theorem busLoc_bb {i : Nat} (hi : i < 2956) : busLoc (offset (0x04000 + 4 * i)) .word = some (.bb i) := by
  have ha : (offset (0x04000 + 4 * i)).toNat = 0x04000 + 4 * i := Nat.mod_eq_of_lt (by omega)
  have hl : locAt (0x04000 + 4 * i) = some (.bb ((0x04000 + 4 * i - 0x04000) / 4)) := by
    simp (disch := omega) only [locAt, if_neg, if_pos]
  rw [busLoc, ha, if_pos ⟨rfl, by omega⟩, hl, Nat.add_sub_cancel_left, Nat.mul_div_cancel_left i (by decide)]

/-- Every mapped location of an idle core is read. -/
theorem State.hostRead_of_idle {a : Addr} {w : Width} {l : Loc} (h : busLoc a w = some l) {s : State}
    (hs : s.seq = .idle) : s.hostRead a w = s.respond (.data (s.readLoc l)) := by
  simp [State.hostRead, h, State.busy, hs]

theorem State.hostRead_bb_of_idle {s : State} (hs : s.seq = .idle) {i : Nat} (hi : i < 2956) :
    s.hostRead (offset (0x04000 + 4 * i)) .word = s.respond (.data ((bbByte s.bb i).setWidth 32)) :=
  State.hostRead_of_idle (busLoc_bb hi) hs

/-- An empty buffer reads 0 everywhere. -/
@[simp] theorem bbByte_nil (i : Nat) : bbByte [] i = 0#8 := by
  rw [bbByte, List.drop_nil]
  rfl

/-! ## The two commands -/

theorem exec_bbClear (s : State) : exec .bbClear s = .next (s.clearBits.complete .none) := rfl

theorem exec_bbPut_of_wide {s : State} (hw : 32 < s.arg1.toNat) :
    exec .bbPut s = .next (s.complete .badArgument) := if_pos hw

theorem exec_bbPut_of_full {s : State} (hw : s.arg1.toNat ≤ 32) (hfull : 23648 < s.bb.length + s.arg1.toNat) :
    exec .bbPut s = .next (s.complete .resourceLimit) :=
  (if_neg (Nat.not_lt.mpr hw)).trans (if_pos hfull)

theorem exec_bbPut_of_fits {s : State} (hw : s.arg1.toNat ≤ 32) (hroom : s.bb.length + s.arg1.toNat ≤ 23648) :
    exec .bbPut s = .next ((s.appendBits (fieldBits s.arg0.toNat s.arg1.toNat)).complete .none) := by
  rw [← bitsMsb_eq_fieldBits]
  exact (if_neg (Nat.not_lt.mpr hw)).trans (if_neg (Nat.not_lt.mpr hroom))

/-- The byte view of R212's worked example: the bits 0010 stand at the top of BB[0]. -/
theorem State.resp_hostRead_bb_of_bb_eq_0010 {s : State} (hs : s.seq = .idle)
    (hbb : s.bb = [false, false, true, false]) : (s.hostRead 0x04000#17 .word).resp = .data 0x20#32 := by
  have hread := State.hostRead_bb_of_idle hs (i := 0) (by decide)
  rw [hbb] at hread
  exact congrArg State.resp hread

/-- Settles O30: the completed core is idle with an empty buffer, so a read of its BB window is answered with 0. -/
theorem bbClearCommand : Obligations.BbClearCommand := by
  unfold Obligations.BbClearCommand
  refine ⟨rfl, fun s => ⟨_, exec_bbClear s, rfl, rfl, fun i hi => ?_⟩⟩
  rw [State.hostRead_bb_of_idle rfl hi, State.complete_bb, State.clearBits_bb, bbByte_nil]
  rfl

/-- Settles O31: one branch of the command per clause, and the worked example is the success at 0x12 and 4. -/
theorem bbPutCommand : Obligations.BbPutCommand := by
  unfold Obligations.BbPutCommand
  refine ⟨rfl, fun s => ⟨exec_bbPut_of_fits, exec_bbPut_of_wide, exec_bbPut_of_full⟩, fun s hbb h0 h1 => ?_⟩
  have hw : s.arg1.toNat = 4 := by rw [h1]; rfl
  have hbits : (s.appendBits (fieldBits s.arg0.toNat s.arg1.toNat)).bb = [false, false, true, false] := by
    rw [State.appendBits_bb, hbb, h0, h1]
    rfl
  have hfits := exec_bbPut_of_fits (s := s) (by omega) (by rw [hbb, hw]; decide)
  refine ⟨_, hfits, hbits, congrArg List.length hbits, ?_⟩
  exact State.resp_hostRead_bb_of_bb_eq_0010 (State.complete_seq _ .none) hbits

end Sys2Proof.Machine
end

section
/-! SUPPORT. The BCH encoder (44_matrix.md R286, R289, R295): `bchrem` is a remainder, so the data above its remainder
are a multiple of the generator; and the commands BCH_FMT and BCH_VER (R296, R297). -/

namespace Sys2Proof.Machine

/-! ## Bit lengths (R295)

A bit length is known from what a right shift leaves, and shifts commute with XOR. -/

theorem bitlen_le_iff {x k : Nat} : bitlen x ≤ k ↔ x >>> k = 0 := by
  rw [Nat.shiftRight_eq_div_pow, Nat.div_eq_zero_iff_lt (Nat.two_pow_pos k), bitlen]
  split
  · simp [*]
  · exact Nat.log2_lt ‹_›

theorem bitlen_xor_le {x y k : Nat} (hx : bitlen x ≤ k) (hy : bitlen y ≤ k) : bitlen (x ^^^ y) ≤ k := by
  rw [bitlen_le_iff] at *
  rw [Nat.shiftRight_xor_distrib, hx, hy, Nat.xor_self]

theorem bitlen_eq_succ_iff {x k : Nat} : bitlen x = k + 1 ↔ x >>> k = 1 := by
  have hk := bitlen_le_iff (x := x) (k := k)
  have hk1 := bitlen_le_iff (x := x) (k := k + 1)
  rw [Nat.shiftRight_succ] at hk1
  omega

theorem bitlen_shiftLeft {x : Nat} (hx : 0 < bitlen x) (n : Nat) : bitlen (x <<< n) = bitlen x + n := by
  obtain ⟨k, hk⟩ := Nat.exists_eq_add_one.mpr hx
  rw [hk, Nat.add_right_comm, bitlen_eq_succ_iff, Nat.add_comm k, Nat.shiftRight_add, Nat.shiftLeft_shiftRight,
    bitlen_eq_succ_iff.mp hk]

/-- The highest bits of two polynomials of one degree cancel. -/
theorem bitlen_xor_lt {x y : Nat} (hx : 0 < bitlen x) (hxy : bitlen x = bitlen y) : bitlen (x ^^^ y) < bitlen x := by
  obtain ⟨k, hk⟩ := Nat.exists_eq_add_one.mpr hx
  rw [hk, Nat.lt_succ_iff, bitlen_le_iff, Nat.shiftRight_xor_distrib, bitlen_eq_succ_iff.mp hk,
    bitlen_eq_succ_iff.mp (hxy ▸ hk), Nat.xor_self]

/-- A polynomial of lower degree leaves the highest bit alone. -/
theorem bitlen_xor_of_lt {x r : Nat} (h : bitlen r < bitlen x) : bitlen (x ^^^ r) = bitlen x := by
  obtain ⟨k, hk⟩ := Nat.exists_eq_add_one.mpr (Nat.zero_lt_of_lt h)
  have hr : bitlen r ≤ k := by omega
  rw [hk, bitlen_eq_succ_iff, Nat.shiftRight_xor_distrib, bitlen_eq_succ_iff.mp hk, bitlen_le_iff.mp hr, Nat.xor_zero]

/-- What stands below a shifted number is added to it alike by OR and by XOR. -/
theorem shiftLeft_or_eq_xor (d : Nat) {r k : Nat} (hr : bitlen r ≤ k) : (d <<< k) ||| r = (d <<< k) ^^^ r := by
  refine Nat.eq_of_testBit_eq fun i => ?_
  rw [Nat.testBit_or, Nat.testBit_xor, Nat.testBit_shiftLeft]
  by_cases hi : k ≤ i
  · have hri : r.testBit i = false := by
      rw [← Nat.add_sub_cancel' hi, ← Nat.testBit_shiftRight, bitlen_le_iff.mp hr, Nat.zero_testBit]
    rw [hri, Bool.or_false, Bool.xor_false]
  · simp [hi]

/-! ## The remainder (R295) -/

section
variable {g : Nat}

theorem bchremLoop_of_lt {fuel x : Nat} (h : bitlen x < bitlen g) : bchremLoop fuel x g = x := by
  cases fuel with
  | zero => rfl
  | succ fuel => exact if_neg (Nat.not_le.mpr h)

theorem bchremLoop_succ_of_le {fuel x : Nat} (h : bitlen g ≤ bitlen x) :
    bchremLoop (fuel + 1) x g = bchremLoop fuel (x ^^^ (g <<< (bitlen x - bitlen g))) g := if_pos h

/-- One pass of the loop lowers the bit length. -/
theorem bitlen_pass_lt {x : Nat} (hg : 0 < bitlen g) (h : bitlen g ≤ bitlen x) :
    bitlen (x ^^^ (g <<< (bitlen x - bitlen g))) < bitlen x := by
  refine bitlen_xor_lt (by omega) ?_
  rw [bitlen_shiftLeft hg]
  omega

theorem bitlen_bchremLoop_lt (hg : 0 < bitlen g) {fuel x : Nat} (hfuel : bitlen x < bitlen g + fuel) :
    bitlen (bchremLoop fuel x g) < bitlen g := by
  induction fuel generalizing x with
  | zero => exact hfuel
  | succ fuel ih =>
    by_cases h : bitlen g ≤ bitlen x
    · have hpass := bitlen_pass_lt hg h
      rw [bchremLoop_succ_of_le h]
      exact ih (by omega)
    · rwa [bchremLoop_of_lt (by omega), ← Nat.not_le]

/-- The loop runs on a polynomial the same way whatever stands below the degree of the generator. -/
theorem bchremLoop_xor {r : Nat} (hr : bitlen r < bitlen g) (fuel x : Nat) :
    bchremLoop fuel (x ^^^ r) g = bchremLoop fuel x g ^^^ r := by
  induction fuel generalizing x with
  | zero => rfl
  | succ fuel ih =>
    by_cases h : bitlen g ≤ bitlen x
    · have hxr : bitlen (x ^^^ r) = bitlen x := bitlen_xor_of_lt (by omega)
      rw [bchremLoop_succ_of_le h, bchremLoop_succ_of_le (hxr ▸ h), hxr, Nat.xor_right_comm, ih]
    · have hxr : bitlen (x ^^^ r) ≤ bitlen g - 1 := bitlen_xor_le (by omega) (by omega)
      rw [bchremLoop_of_lt (by omega), bchremLoop_of_lt (by omega)]

theorem bitlen_bchrem_lt (hg : 0 < bitlen g) (x : Nat) : bitlen (bchrem x g) < bitlen g :=
  bitlen_bchremLoop_lt hg (by omega)

/-- A polynomial less its remainder is a multiple of the generator. -/
theorem bchrem_xor_bchrem (hg : 0 < bitlen g) (x : Nat) : bchrem (x ^^^ bchrem x g) g = 0 := by
  by_cases h : bitlen g ≤ bitlen x
  · have hr := bitlen_bchrem_lt hg x
    rw [bchrem, bitlen_xor_of_lt (hr.trans_le h), bchremLoop_xor hr]
    exact Nat.xor_self _
  · rw [bchrem.eq_def x, bchremLoop_of_lt (by omega), Nat.xor_self]
    rfl

end

/-! ## The systematic code word (R286, R289) -/

/-- The data above its remainder, k bits wide: `verword`, and `fmtword` before its mask. -/
def systematicWord (k g d : Nat) : Nat := (d <<< k) ||| bchrem (d <<< k) g

section
variable {k g : Nat}

theorem bitlen_bchrem_le (hg : bitlen g = k + 1) (x : Nat) : bitlen (bchrem x g) ≤ k := by
  have hlt := bitlen_bchrem_lt (g := g) (by omega) x
  omega

theorem systematicWord_shiftRight (hg : bitlen g = k + 1) (d : Nat) : systematicWord k g d >>> k = d := by
  rw [systematicWord, Nat.shiftRight_or_distrib, Nat.shiftLeft_shiftRight, bitlen_le_iff.mp (bitlen_bchrem_le hg _),
    Nat.or_zero]

theorem systematicWord_lt (hg : bitlen g = k + 1) {d n : Nat} (hd : d < 2 ^ n) :
    systematicWord k g d < 2 ^ (n + k) := by
  rwa [Nat.pow_add, ← Nat.div_lt_iff_lt_mul (Nat.two_pow_pos k), ← Nat.shiftRight_eq_div_pow,
    systematicWord_shiftRight hg]

/-- The word is a multiple of the generator. -/
theorem bchrem_systematicWord (hg : bitlen g = k + 1) (d : Nat) : bchrem (systematicWord k g d) g = 0 := by
  rw [systematicWord, shiftLeft_or_eq_xor d (bitlen_bchrem_le hg _)]
  exact bchrem_xor_bchrem (by omega) (d <<< k)

end

/-! ## The two words (R286, R289) and the commands (R296, R297) -/

theorem bitlen_g15 : bitlen g15 = 10 + 1 := by decide

theorem bitlen_g18 : bitlen g18 = 12 + 1 := by decide

theorem fmtword_eq (d : Nat) : fmtword d = systematicWord 10 g15 d ^^^ fmtMask := rfl

theorem verword_eq (v : Nat) : verword v = systematicWord 12 g18 v := rfl

theorem fmtword_spec {d : Nat} (hd : d < 2 ^ 5) :
    fmtword d < 2 ^ 15 ∧ (fmtword d ^^^ fmtMask) >>> 10 = d ∧ bchrem (fmtword d ^^^ fmtMask) g15 = 0 := by
  rw [fmtword_eq, Nat.xor_xor_cancel_right]
  exact ⟨Nat.xor_lt_two_pow (systematicWord_lt bitlen_g15 hd) (by decide), systematicWord_shiftRight bitlen_g15 d,
    bchrem_systematicWord bitlen_g15 d⟩

theorem verword_spec {v : Nat} (hv : v < 2 ^ 6) :
    verword v < 2 ^ 18 ∧ verword v >>> 12 = v ∧ bchrem (verword v) g18 = 0 := by
  rw [verword_eq]
  exact ⟨systematicWord_lt bitlen_g18 hv, systematicWord_shiftRight bitlen_g18 v, bchrem_systematicWord bitlen_g18 v⟩

theorem exec_bchFmt_of_le {s : State} (h : s.arg0.toNat ≤ 31) :
    exec .bchFmt s = .next ((s.setRes0 (zext (fmtword s.arg0.toNat))).complete .none) :=
  if_neg (Nat.not_lt.mpr h)

theorem exec_bchFmt_of_gt {s : State} (h : 31 < s.arg0.toNat) :
    exec .bchFmt s = .next (s.complete .badArgument) := if_pos h

theorem exec_bchVer_of_le {s : State} (h : s.arg0.toNat ≤ 63) :
    exec .bchVer s = .next ((s.setRes0 (zext (verword s.arg0.toNat))).complete .none) :=
  if_neg (Nat.not_lt.mpr h)

theorem exec_bchVer_of_gt {s : State} (h : 63 < s.arg0.toNat) :
    exec .bchVer s = .next (s.complete .badArgument) := if_pos h

/-- Settles O42: one branch of each command per clause, and both words are systematic code words. -/
theorem bchCommands : Obligations.BchCommands := by
  unfold Obligations.BchCommands
  exact ⟨rfl, rfl,
    fun _ => ⟨exec_bchFmt_of_le, exec_bchFmt_of_gt, exec_bchVer_of_le, exec_bchVer_of_gt⟩,
    fun d hd => fmtword_spec (by omega), fun v hv => verword_spec (by omega), by decide, by decide, by decide, by decide⟩

end Sys2Proof.Machine
end

section
/-! SUPPORT. MASK_BIT (44_matrix.md R293, R294): the mask predicate as the table of its conditions, and the command. -/

namespace Sys2Proof.Machine

/-- The table of R293. -/
theorem maskBit_iff {m : Nat} (hm : m ≤ 7) (i j : Nat) : maskBit m i j = true ↔
    (m = 0 ∧ (i + j) % 2 = 0) ∨ (m = 1 ∧ i % 2 = 0) ∨ (m = 2 ∧ j % 3 = 0) ∨ (m = 3 ∧ (i + j) % 3 = 0) ∨
    (m = 4 ∧ (i / 2 + j / 3) % 2 = 0) ∨ (m = 5 ∧ (i * j) % 2 + (i * j) % 3 = 0) ∨
    (m = 6 ∧ ((i * j) % 2 + (i * j) % 3) % 2 = 0) ∨ (m = 7 ∧ ((i * j) % 3 + (i + j) % 2) % 2 = 0) := by
  interval_cases m <;> simp [maskBit]

/-- (0, 0) is inverted by every mask (R294). -/
theorem maskBit_zero_zero : ∀ m ≤ 7, maskBit m 0 0 = true := by decide

/-- A truth value in a result register. -/
theorem zext_toNat_bool (b : Bool) : zext b.toNat = if b = true then 1#32 else 0#32 := by
  cases b <;> rfl

theorem exec_maskBit_of_index {s : State} (h : 255 < s.arg1.toNat ∨ 255 < s.arg2.toNat) :
    exec .maskBit s = .next (s.complete .badArgument) := if_pos (by simpa using h)

theorem exec_maskBit_of_mask {s : State} (hi : s.arg1.toNat ≤ 255) (hj : s.arg2.toNat ≤ 255) (hm : 7 < s.arg0.toNat) :
    exec .maskBit s = .next (s.complete .invalidMaskPattern) :=
  (if_neg (by simp [hi, hj])).trans (if_pos hm)

theorem exec_maskBit_of_le {s : State} (hi : s.arg1.toNat ≤ 255) (hj : s.arg2.toNat ≤ 255) (hm : s.arg0.toNat ≤ 7) :
    exec .maskBit s = .next
      ((s.setRes0 (if maskBit s.arg0.toNat s.arg1.toNat s.arg2.toNat = true then 1#32 else 0#32)).complete .none) := by
  rw [← zext_toNat_bool]
  exact (if_neg (by simp [hi, hj])).trans (if_neg (Nat.not_lt.mpr hm))

/-- Settles O43: one branch of the command per clause, and the predicate is the table of R293. -/
theorem maskBitCommand : Obligations.MaskBitCommand := by
  unfold Obligations.MaskBitCommand
  refine ⟨rfl, ?_, maskBit_zero_zero, by decide⟩
  rintro s _ i j rfl rfl rfl
  refine ⟨exec_maskBit_of_index, exec_maskBit_of_mask, fun hi hj hm => ?_⟩
  rw [exec_maskBit_of_le hi hj hm, if_congr (maskBit_iff hm _ _) rfl rfl]
  rfl

end Sys2Proof.Machine
end

section
/-! SUPPORT. Rule 4 (45_mask_select.md R334): the natural-number quotient is the rational floor, and its bounds. -/

namespace Sys2Proof.Machine

/-- `|20·D − 10·N|`, the numerator of R334. -/
def darkImbalance (n d : Nat) : Nat := (20 * (d : Int) - 10 * (n * n : Nat)).natAbs

theorem penalty4_eq (n d : Nat) : penalty4 n d = 10 * (darkImbalance n d / (n * n)) := rfl

theorem cast_darkImbalance (n d : Nat) :
    (darkImbalance n d : ℚ) = |20 * (d : ℚ) - 10 * ((n : ℚ) * (n : ℚ))| := by
  rw [darkImbalance, Nat.cast_natAbs]
  push_cast
  rfl

theorem penalty4_eq_floor (n d : Nat) :
    (penalty4 n d : Int) = 10 * ⌊|20 * (d : ℚ) - 10 * ((n : ℚ) * (n : ℚ))| / ((n : ℚ) * (n : ℚ))⌋ := by
  rw [← cast_darkImbalance, ← Nat.cast_mul n n, Rat.floor_natCast_div_natCast, penalty4_eq]
  push_cast
  rfl

/-- The identity of R334: `|percentage_dark − 50| / 5 = |20·D − 10·N| / N`. -/
theorem abs_percentage_sub_div {N : ℚ} (hN : 0 < N) (D : ℚ) :
    |100 * D / N - 50| / 5 = |20 * D - 10 * N| / N := by
  have hscale : 100 * D / N - 50 = 5 * ((20 * D - 10 * N) / N) := by
    field_simp
    ring
  rw [hscale, abs_mul, abs_div, abs_of_pos hN, abs_of_pos (by norm_num : (0 : ℚ) < 5),
    mul_div_cancel_left₀ _ (by norm_num)]

theorem darkImbalance_le {n d : Nat} (hd : d ≤ n * n) : darkImbalance n d ≤ 10 * (n * n) := by
  unfold darkImbalance
  omega

theorem penalty4_le {n d : Nat} (hd : d ≤ n * n) : penalty4 n d ≤ 100 := by
  have hquot : darkImbalance n d / (n * n) ≤ 10 :=
    Nat.div_le_of_le_mul ((darkImbalance_le hd).trans_eq (Nat.mul_comm 10 (n * n)))
  rw [penalty4_eq]
  omega

/-- The grids of one colour reach the bound. -/
theorem penalty4_of_darkImbalance_eq {n d : Nat} (hn : 0 < n) (h : darkImbalance n d = 10 * (n * n)) :
    penalty4 n d = 100 := by
  rw [penalty4_eq, h, Nat.mul_div_cancel _ (Nat.mul_pos hn hn)]

theorem darkImbalance_zero (n : Nat) : darkImbalance n 0 = 10 * (n * n) := by
  unfold darkImbalance
  omega

theorem darkImbalance_mul_self (n : Nat) : darkImbalance n (n * n) = 10 * (n * n) := by
  unfold darkImbalance
  omega

/-- Settles O46: the quotient is R334's rational floor, and both forms of R334 are one rational number. -/
theorem darkBalanceIsExact : Obligations.DarkBalanceIsExact := by
  unfold Obligations.DarkBalanceIsExact
  refine ⟨fun n d hn => ⟨?_, penalty4_eq_floor n d⟩, fun _ _ _ => penalty4_le, fun n hn => ⟨?_, ?_⟩,
    by decide, by decide⟩
  · have hN : (0 : ℚ) < (n : ℚ) * n := by positivity
    rw [abs_percentage_sub_div hN]
    exact penalty4_eq_floor n d
  · exact penalty4_of_darkImbalance_eq hn (darkImbalance_zero n)
  · exact penalty4_of_darkImbalance_eq hn (darkImbalance_mul_self n)

end Sys2Proof.Machine
end

section
/-! SUPPORT. SRESET and NOP (46_control.md R350, R351): what the decoder's answer says of the fields of a word
(30_encoding.md R110 to R114), the STATUS word of a completed command (10_state.md R34), and the two commands. -/

namespace Sys2Proof

/-- The fields of a word are all of it (R110). -/
theorem CmdFields.pack_split (w : Word) : (CmdFields.split w).pack = w := by
  change w.extractLsb' 14 18 ++ w.extractLsb' 12 2 ++ w.extractLsb' 10 2 ++ w.extractLsb' 8 2 ++ w.extractLsb' 0 8 = w
  ext i hi
  simp only [BitVec.getElem_append, BitVec.getElem_extractLsb']
  split_ifs <;> rw [← BitVec.getLsbD_eq_getElem] <;> congr 1 <;> omega

theorem opRow_eq_some {op : BitVec 8} {r : OpRow} (h : opRow op = some r) : r ∈ opTable ∧ r.code = op :=
  ⟨List.mem_of_find?_eq_some h, by simpa using List.find?_some h⟩

/-- What R112 asks of a legal word: a row of the opcode map, and fields that meet R111 for that row. -/
theorem exists_opRow_of_decode_ok {w : Word} {i : Instr} (h : decode w = .ok i) :
    ∃ r d a b, r ∈ opTable ∧ r.code = (CmdFields.split w).op ∧ (CmdFields.split w).wellFormed r.use = true ∧
      i = r.make d a b := by
  unfold decode at h
  cases hr : opRow (CmdFields.split w).op with
  | none => simp [hr] at h
  | some r =>
    obtain ⟨hmem, hcode⟩ := opRow_eq_some hr
    simp only [hr] at h
    split_ifs at h with _ hwf
    injection h with h
    exact ⟨r, _, _, _, hmem, hcode, by simpa using hwf, h.symm⟩

/-- The one row of the opcode map for NOP (R114). -/
theorem opRow_of_make_eq_nop : ∀ r ∈ opTable, ∀ d a b, r.make d a b = .nop → r.code = 0#8 ∧ r.use = useNone := by
  simp [opTable]

/-- For an opcode that uses no register field, OP is the only field that may not be 0 (R111). -/
theorem CmdFields.eq_of_wellFormed_useNone {f : CmdFields} (h : f.wellFormed useNone = true) :
    f = ⟨f.op, 0#2, 0#2, 0#2, 0#18⟩ := by
  obtain ⟨op, rd, ra, rb, rsv⟩ := f
  obtain ⟨⟨⟨rfl, rfl⟩, rfl⟩, rfl⟩ : ((rsv = 0#18 ∧ rd = 0#2) ∧ ra = 0#2) ∧ rb = 0#2 := by
    simpa [wellFormed, reservedZero, rdOk, raOk, rbOk, useNone] using h
  rfl

theorem decode_eq_ok_nop_iff {w : Word} : decode w = .ok .nop ↔ w = 0#32 := by
  constructor
  · intro h
    obtain ⟨r, d, a, b, hmem, hop, hwf, hmake⟩ := exists_opRow_of_decode_ok h
    obtain ⟨hcode, huse⟩ := opRow_of_make_eq_nop r hmem d a b hmake.symm
    rw [huse] at hwf
    rw [← CmdFields.pack_split w, CmdFields.eq_of_wellFormed_useNone hwf, ← hop, hcode]
    rfl
  · rintro rfl
    rfl

end Sys2Proof

namespace Sys2Proof.Machine

/-- STATUS is DONE alone after a success that finds no dropped write and no committed grid (R34, R381). -/
theorem State.statusWord_complete_none {s : State} (hover : s.overrun = false) (hgrid : s.gridState ≠ .committed) :
    (s.complete .none).statusWord = 0x00000002#32 := by
  have hcom : s.committed = false := beq_eq_false_iff_ne.mpr hgrid
  simp [State.statusWord, hover, hcom, ErrCode.code]

/-- A polynomial register of one coefficient (R48). -/
theorem State.polyRaw_of_plen_eq_one {s : State} {k : PReg} (h : s.plen k = 1#9) :
    s.polyRaw k = [s.mem.read (prAddr k 0)] := by
  rw [State.polyRaw, h]
  rfl

@[simp] theorem State.plen_resetRegisters (s : State) (k : PReg) : s.resetRegisters.plen k = 1#9 := by
  cases k <;> rfl

theorem exec_nop (s : State) : exec .nop s = .next (s.complete .none) := rfl

theorem exec_sreset (s : State) : exec .sreset s = .next (s.resetRegisters.complete .none) := rfl

/-- Settles O16: the completion of the state with its registers reset. -/
theorem sresetResetsRegistersAndKeepsMemories : Obligations.SresetResetsRegistersAndKeepsMemories := by
  unfold Obligations.SresetResetsRegistersAndKeepsMemories
  refine ⟨rfl, fun s => ⟨_, exec_sreset s, rfl, ?_, State.complete_irq _ _, rfl, rfl, fun k => ?_⟩⟩
  · exact State.statusWord_complete_none (State.resetRegisters_overrun s) (by simp)
  · exact State.polyRaw_of_plen_eq_one ((State.plen_complete _ _ k).trans (State.plen_resetRegisters s k))

/-- Settles O54: only the completion of R381 runs, and only the word 0 has NOP's opcode and no field set. -/
theorem nopCommand : Obligations.NopCommand := by
  unfold Obligations.NopCommand
  refine ⟨rfl, fun _ => decode_eq_ok_nop_iff, fun s => ⟨_, exec_nop s, rfl, State.complete_irq s _, ?_⟩⟩
  exact fun hgrid hover => State.statusWord_complete_none hover hgrid

end Sys2Proof.Machine
end

section
/-! SUPPORT. IllegalCommand (60_exceptions.md R382): a word the decoder accepts meets R112's condition, so a captured
word that does not meet it is refused by the decoder, and the step that runs it is a completion with code 8. -/

namespace Sys2Proof

/-! ## What the decoder accepts is legal (30_encoding.md R111, R112, R114) -/

theorem CmdFields.wellFormed_iff {u : FieldUse} {f : CmdFields} :
    f.wellFormed u = true ↔
      f.rsv = 0#18 ∧ (u.rd = false → f.rd = 0#2) ∧ (u.ra = false → f.ra = 0#2) ∧ (u.rb = false → f.rb = 0#2) := by
  simp [wellFormed, reservedZero, rdOk, raOk, rbOk, and_assoc, ← Bool.not_eq_true, imp_iff_not_or]

/-- The opcodes of the map are R114's, and a row leaves RD, RA, RB unused exactly where R114 does. -/
theorem opTable_code_use : ∀ r ∈ opTable,
    r.code ∈ Machine.opcodeList ∧
    (r.code ∉ [0x12#8, 0x13#8, 0x14#8, 0x15#8] → r.use.rd = false) ∧
    (r.code ∉ [0x12#8, 0x13#8, 0x15#8] → r.use.ra = false) ∧
    (r.code ∉ [0x12#8, 0x13#8] → r.use.rb = false) := by
  decide

theorem legalWord_of_decode_ok {w : Word} {i : Instr} (h : decode w = .ok i) : Machine.LegalWord w := by
  obtain ⟨r, _, _, _, hmem, hcode, hwf, -⟩ := exists_opRow_of_decode_ok h
  obtain ⟨hop, hd, ha, hb⟩ := opTable_code_use r hmem
  obtain ⟨hrsv, hrd, hra, hrb⟩ := CmdFields.wellFormed_iff.mp hwf
  rw [hcode] at hop hd ha hb
  exact ⟨hop, hrsv, hrd ∘ hd, hra ∘ ha, hrb ∘ hb⟩

theorem exists_decode_error_of_not_legalWord {w : Word} (h : ¬ Machine.LegalWord w) : ∃ e, decode w = .error e := by
  cases hd : decode w with
  | ok i => exact absurd (legalWord_of_decode_ok hd) h
  | error e => exact ⟨e, rfl⟩

end Sys2Proof

namespace Sys2Proof.Machine

/-! ## The step that runs an illegal word (60_exceptions.md R381, R382) -/

section
variable {s : State} {w : Word} {n : Nat}

/-- The captured word runs when no host access is left before it, or when the host does nothing (log 4). -/
theorem step_eq_runCommand (hr : s.rst = false) (hs : s.seq = .busy w n) (hn : n = 0 ∨ s.bus = []) :
    step s = runCommand w s := by
  cases n with
  | zero => simp [step, hr, hs]
  | succ n =>
    have hb : s.bus = [] := hn.resolve_left n.succ_ne_zero
    simp [step, hr, hs, hb]

/-- Whether the delay is over or the host does nothing, an illegal word completes with IllegalCommand. -/
theorem step_of_not_legalWord (hr : s.rst = false) (hs : s.seq = .busy w n) (hn : n = 0 ∨ s.bus = [])
    (hw : ¬ LegalWord w) : step s = .next (s.complete .illegalCommand) := by
  obtain ⟨e, he⟩ := exists_decode_error_of_not_legalWord hw
  rw [step_eq_runCommand hr hs hn, runCommand_error he]

end

/-- Settles O5: the decoder refuses the word, and `complete` changes only SEQ, DONE and ERR. -/
theorem illegalWordChangesOnlyStatus : Obligations.IllegalWordChangesOnlyStatus := by
  unfold Obligations.IllegalWordChangesOnlyStatus
  exact ⟨rfl, fun _ _ hr hs hw => step_of_not_legalWord hr hs (.inl rfl) hw⟩

end Sys2Proof.Machine
end

section
/-! SUPPORT. Decoder and encoder are inverse to each other (30_encoding.md R110 to R117): a word is its fields, and the
opcode map has one row for each opcode of R114. -/

namespace Sys2Proof

/-! ## Fields and words (R110) -/

/-- The word of five fields has those fields. -/
theorem CmdFields.split_pack (f : CmdFields) : CmdFields.split f.pack = f := by
  obtain ⟨op, rd, ra, rb, rsv⟩ := f
  simp only [split, pack, mk.injEq]
  refine ⟨?_, ?_, ?_, ?_, ?_⟩
  all_goals
    ext i hi
    simp (disch := omega) only [BitVec.getElem_extractLsb', BitVec.getLsbD_append, if_pos, if_neg]
    rw [← BitVec.getLsbD_eq_getElem]
    congr 1
    omega

@[simp] theorem PReg.ofBits_bits (r : PReg) : PReg.ofBits r.bits = r := by cases r <;> rfl

@[simp] theorem PReg.bits_ofBits (b : BitVec 2) : (PReg.ofBits b).bits = b := by revert b; decide

/-! ## The rows of the opcode map (R114) -/

/-- The row of a listed opcode is found. -/
theorem opRow_code : ∀ r ∈ opTable, opRow r.code = some r := by
  simp only [opTable, List.forall_mem_cons]
  exact ⟨rfl, rfl, rfl, rfl, rfl, rfl, rfl, rfl, rfl, rfl, rfl, rfl, rfl, rfl, rfl, rfl, rfl, rfl, by simp⟩

/-- A row's command has the fields it was made from, when they meet R111. -/
theorem fields_make : ∀ r ∈ opTable, ∀ f : CmdFields, r.code = f.op → f.wellFormed r.use = true →
    (r.make (.ofBits f.rd) (.ofBits f.ra) (.ofBits f.rb)).fields = f := by
  simp only [opTable, useNone, List.forall_mem_cons, List.not_mem_nil, false_implies, implies_true, and_true]
  refine ⟨?_, ?_, ?_, ?_, ?_, ?_, ?_, ?_, ?_, ?_, ?_, ?_, ?_, ?_, ?_, ?_, ?_, ?_⟩ <;> rintro ⟨op, rd, ra, rb, rsv⟩ rfl hwf <;>
    simp_all [CmdFields.wellFormed_iff, Instr.fields, Instr.opcode, Instr.regs, PReg.fieldOf]

/-- What the decoder accepts and what it answers (R112). -/
theorem decode_eq_ok_iff {w : Word} {i : Instr} :
    decode w = .ok i ↔ ∃ r ∈ opTable, r.code = (CmdFields.split w).op ∧ (CmdFields.split w).wellFormed r.use = true ∧
      i = r.make (.ofBits (CmdFields.split w).rd) (.ofBits (CmdFields.split w).ra) (.ofBits (CmdFields.split w).rb) := by
  unfold decode
  constructor
  · intro h
    cases hr : opRow (CmdFields.split w).op with
    | none => simp [hr] at h
    | some r =>
      obtain ⟨hmem, hcode⟩ := opRow_eq_some hr
      simp only [hr] at h
      split_ifs at h with _ hwf
      exact ⟨r, hmem, hcode, by simpa using hwf, by injection h with h; exact h.symm⟩
  · rintro ⟨r, hmem, hcode, hwf, rfl⟩
    have hres : (CmdFields.split w).reservedZero = true := by
      simp only [CmdFields.wellFormed, Bool.and_eq_true] at hwf
      exact hwf.1.1.1
    simp [← hcode, opRow_code r hmem, hres, hwf]

/-- Every command has its row: R114 lists it once for the decoder and once for the encoder. -/
theorem exists_row_of_instr (i : Instr) : ∃ r ∈ opTable, r.code = i.opcode ∧ i.fields.wellFormed r.use = true ∧
    i = r.make (.ofBits i.fields.rd) (.ofBits i.fields.ra) (.ofBits i.fields.rb) := by
  cases i <;> simp [opTable, Instr.opcode, Instr.fields, Instr.regs, PReg.fieldOf, useNone, CmdFields.wellFormed,
    CmdFields.reservedZero, CmdFields.rdOk, CmdFields.raOk, CmdFields.rbOk]

theorem decode_encode (i : Instr) : decode (encode i) = .ok i := by
  obtain ⟨r, hmem, hcode, hwf, hmake⟩ := exists_row_of_instr i
  rw [decode_eq_ok_iff, encode, CmdFields.split_pack]
  exact ⟨r, hmem, hcode, hwf, hmake⟩

theorem decode_eq_ok_iff_eq_encode {w : Word} {i : Instr} : decode w = .ok i ↔ w = encode i := by
  constructor
  · intro h
    obtain ⟨r, hmem, hcode, hwf, rfl⟩ := decode_eq_ok_iff.mp h
    rw [encode, fields_make r hmem _ hcode hwf, CmdFields.pack_split]
  · rintro rfl
    exact decode_encode i

/-- A row leaves a register field unused only where R114 does. -/
theorem not_mem_of_use_eq_false : ∀ r ∈ opTable,
    (r.use.rd = false → r.code ∉ [0x12#8, 0x13#8, 0x14#8, 0x15#8]) ∧
    (r.use.ra = false → r.code ∉ [0x12#8, 0x13#8, 0x15#8]) ∧
    (r.use.rb = false → r.code ∉ [0x12#8, 0x13#8]) := by
  decide

/-- Every opcode of R114 has a row. -/
theorem exists_row_of_mem_opcodeList : ∀ op ∈ Machine.opcodeList, ∃ r ∈ opTable, r.code = op := by decide

theorem exists_decode_ok_of_legalWord {w : Word} (h : Machine.LegalWord w) : ∃ i, decode w = .ok i := by
  obtain ⟨hop, hrsv, hrd, hra, hrb⟩ := h
  obtain ⟨r, hmem, hcode⟩ := exists_row_of_mem_opcodeList _ hop
  obtain ⟨hd, ha, hb⟩ := not_mem_of_use_eq_false r hmem
  rw [← hcode] at hrd hra hrb
  exact ⟨_, decode_eq_ok_iff.mpr ⟨r, hmem, hcode,
    CmdFields.wellFormed_iff.mpr ⟨hrsv, hrd ∘ hd, hra ∘ ha, hrb ∘ hb⟩, rfl⟩⟩

theorem wellFormed_fields (i : Instr) : i.wellFormed = true := by
  cases i <;> simp [Instr.wellFormed, Instr.uses, Instr.fields, Instr.regs, PReg.fieldOf, useNone, CmdFields.wellFormed,
    CmdFields.reservedZero, CmdFields.rdOk, CmdFields.raOk, CmdFields.rbOk]

/-- Settles O1: the word of a command has the command's fields, and the opcode map gives them back. -/
theorem decodeGivesBackEveryEncodedCommand : Obligations.DecodeGivesBackEveryEncodedCommand := by
  unfold Obligations.DecodeGivesBackEveryEncodedCommand
  exact fun i => ⟨wellFormed_fields i, decode_encode i⟩

/-- Settles O2: the fields of a decoded word are those of the command, and R112's condition is the decoder's. -/
theorem legalWordsAreExactlyTheEncodings : Obligations.LegalWordsAreExactlyTheEncodings := by
  unfold Obligations.LegalWordsAreExactlyTheEncodings
  exact fun w => ⟨fun i => decode_eq_ok_iff_eq_encode,
    fun ⟨_, hi⟩ => legalWord_of_decode_ok hi, exists_decode_ok_of_legalWord⟩

/-- Settles O3: the decoder run on each word. -/
theorem familyWordsDecode : Obligations.FamilyWordsDecode := by
  unfold Obligations.FamilyWordsDecode
  decide

end Sys2Proof
end

section
/-! SUPPORT. The host bus (20_memory.md R83 to R96): the offset of each location, what an access changes in an idle and
in a busy core, and the windows as memory that reads back what was written. -/

namespace Sys2Proof.Machine

/-! ## The address map (R86, R88) -/

/-- An offset of the register block holds a register of the map or is a reserved slot. -/
theorem locAt_of_lt {a : Nat} (h : a < 0x01000) : locAt a = some ((registerMap.lookup a).getD .reserved) := if_pos h

theorem registerMap_lookup_eq_none {a : Nat} (h : a = 0x0001C ∨ a = 0x00028 ∨ a = 0x0002C ∨ a = 0x0003C ∨
    a = 0x00058 ∨ a = 0x0005C ∨ 0x00070 ≤ a) : registerMap.lookup a = none := by
  simp only [List.lookup_eq_none_iff, registerMap, List.forall_mem_cons, bne_iff_ne]
  refine ⟨?_, ?_, ?_, ?_, ?_, ?_, ?_, ?_, ?_, ?_, ?_, ?_, ?_, ?_, ?_, ?_, ?_, ?_, ?_, ?_, ?_, ?_, by simp⟩ <;> omega

theorem mem_registerMap_of_lookup {a : Nat} {l : Loc} (h : registerMap.lookup a = some l) : (a, l) ∈ registerMap := by
  obtain ⟨l₁, l₂, hl, -⟩ := List.lookup_eq_some_iff.mp h
  simp [hl]

/-- What a mapped offset holds: a register or a reserved slot below the windows, a window place from there on. -/
theorem locAt_cases {a : Nat} {l : Loc} (h : locAt a = some l) :
    (a < 0x01000 ∧ (l = .reserved ∨ (a, l) ∈ registerMap)) ∨
    (0x01000 ≤ a ∧ ((∃ k i, l = .pr k i) ∨ (∃ i, l = .segMode i) ∨ (∃ i, l = .segPos i) ∨ (∃ i, l = .bb i) ∨
      (∃ i, l = .cw i) ∨ ∃ i, l = .text i)) := by
  by_cases ha : a < 0x01000
  · rw [locAt_of_lt ha] at h
    refine .inl ⟨ha, ?_⟩
    cases hl : registerMap.lookup a with
    | none => exact .inl (by simpa [hl] using h.symm)
    | some r =>
      obtain rfl : r = l := by simpa [hl] using h
      exact .inr (mem_registerMap_of_lookup hl)
  · refine .inr ⟨by omega, ?_⟩
    unfold locAt at h
    split_ifs at h <;> grind

theorem busLoc_eq_some {a : Addr} {w : Width} {l : Loc} (h : busLoc a w = some l) :
    w = .word ∧ a.toNat % 4 = 0 ∧ locAt a.toNat = some l := by
  unfold busLoc at h
  split_ifs at h with hw
  exact ⟨hw.1, hw.2, h⟩

theorem busLoc_word {a : Addr} (h : a.toNat % 4 = 0) : busLoc a .word = locAt a.toNat := if_pos ⟨rfl, h⟩

theorem exists_busLoc_of_mapped {a : Addr} (h : Mapped a) : ∃ l, busLoc a .word = some l :=
  Option.isSome_iff_exists.mp ((busLoc_isSome_iff a).mpr h)

theorem busLoc_eq_none_of_not_mapped {a : Addr} {w : Width} (h : w ≠ .word ∨ ¬ Mapped a) : busLoc a w = none := by
  by_cases hw : w = .word
  · subst hw
    rw [← Option.not_isSome_iff_eq_none, busLoc_isSome_iff]
    exact h.resolve_left (· rfl)
  · exact if_neg (fun hh => hw hh.1)

theorem registerMap_writableBusy : ∀ p ∈ registerMap, p.2.writableBusy = true → p.1 = 4 ∨ p.1 = 8 := by decide

theorem registerMap_readableBusy :
    ∀ p ∈ registerMap, p.2.readableBusy = true → p.1 = 0 ∨ p.1 = 4 ∨ p.1 = 8 ∨ p.1 = 12 := by decide

/-- Only CTRL and STATUS take a write while BUSY (R96). -/
theorem offset_of_writableBusy {a : Addr} {w : Width} {l : Loc} (h : busLoc a w = some l)
    (hl : l.writableBusy = true) : a = 0x00004#17 ∨ a = 0x00008#17 := by
  obtain ⟨-, -, hloc⟩ := busLoc_eq_some h
  rcases locAt_cases hloc with ⟨-, rfl | hmem⟩ | ⟨-, hwin⟩
  · cases hl
  · exact (registerMap_writableBusy _ hmem hl).imp BitVec.eq_of_toNat_eq BitVec.eq_of_toNat_eq
  · rcases hwin with ⟨k, i, rfl⟩ | ⟨i, rfl⟩ | ⟨i, rfl⟩ | ⟨i, rfl⟩ | ⟨i, rfl⟩ | ⟨i, rfl⟩ <;> cases hl

/-- Only ID, CTRL, STATUS and CMD are read truly while BUSY (R96). -/
theorem offset_of_readableBusy {a : Addr} {w : Width} {l : Loc} (h : busLoc a w = some l)
    (hl : l.readableBusy = true) : a = 0x00000#17 ∨ a = 0x00004#17 ∨ a = 0x00008#17 ∨ a = 0x0000C#17 := by
  obtain ⟨-, -, hloc⟩ := busLoc_eq_some h
  rcases locAt_cases hloc with ⟨-, rfl | hmem⟩ | ⟨-, hwin⟩
  · cases hl
  · exact (registerMap_readableBusy _ hmem hl).imp BitVec.eq_of_toNat_eq
      (.imp BitVec.eq_of_toNat_eq (.imp BitVec.eq_of_toNat_eq BitVec.eq_of_toNat_eq))
  · rcases hwin with ⟨k, i, rfl⟩ | ⟨i, rfl⟩ | ⟨i, rfl⟩ | ⟨i, rfl⟩ | ⟨i, rfl⟩ | ⟨i, rfl⟩ <;> cases hl

/-! ## Accesses that reach no location, and the core's answers -/

theorem State.hostRead_of_none {a : Addr} {w : Width} (h : busLoc a w = none) (s : State) :
    s.hostRead a w = s.respond .error := by
  simp [State.hostRead, h]

theorem State.hostWrite_of_none {a : Addr} {w : Width} (h : busLoc a w = none) (s : State) (v : Word) :
    s.hostWrite a w v = s.respond .error := by
  simp [State.hostWrite, h]

theorem State.heldWrite_of_some {a : Addr} {w : Width} {l : Loc} (h : busLoc a w = some l) (s : State) :
    s.heldWrite a w = s.respond .ok := by
  simp [State.heldWrite, h]

theorem State.heldWrite_of_none {a : Addr} {w : Width} (h : busLoc a w = none) (s : State) :
    s.heldWrite a w = s.respond .error := by
  simp [State.heldWrite, h]

/-- While BUSY a write to any other location is dropped. -/
theorem State.hostWrite_of_busy {a : Addr} {w : Width} {l : Loc} (h : busLoc a w = some l)
    (hl : l.writableBusy = false) {s : State} (hs : s.busy = true) (v : Word) :
    s.hostWrite a w v = s.setOverrun.respond .ok := by
  simp [State.hostWrite, h, hl, hs]

theorem State.hostRead_of_busy {a : Addr} {w : Width} {l : Loc} (h : busLoc a w = some l)
    (hl : l.readableBusy = false) {s : State} (hs : s.busy = true) : s.hostRead a w = s.drawRead := by
  simp [State.hostRead, h, hl, hs]

/-- No read changes the core: only the response and the draw counter. -/
theorem State.exists_hostRead_eq (s : State) (a : Addr) (w : Width) :
    ∃ r d, s.hostRead a w = { s with resp := r, draws := d } := by
  unfold State.hostRead
  split
  · exact ⟨_, s.draws, rfl⟩
  · split
    · exact ⟨_, _, rfl⟩
    · exact ⟨_, s.draws, rfl⟩

/-- Settles O8: a reserved slot has no register in the map, and the other offsets of R88 are not mapped. -/
theorem unmappedAccessesGetABusError : Obligations.UnmappedAccessesGetABusError := by
  unfold Obligations.UnmappedAccessesGetABusError
  refine fun s a w v => ⟨fun hs ha hslot => ?_, fun h => ?_⟩
  · have hloc : busLoc a .word = some .reserved := by
      rw [busLoc_word ha, locAt_of_lt (by omega), registerMap_lookup_eq_none (by omega)]
      rfl
    exact ⟨State.hostRead_of_idle hloc hs, State.hostWrite_of_idle hloc hs v⟩
  · have hloc : busLoc a w = none := busLoc_eq_none_of_not_mapped (h.imp_right fun h => by unfold Mapped; omega)
    exact ⟨State.hostRead_of_none hloc s, State.hostWrite_of_none hloc s v⟩

/-- Settles O9: R96's locations are the only ones a busy core reads or writes. -/
theorem busyAccessesDropWritesAndDrawReads : Obligations.BusyAccessesDropWritesAndDrawReads := by
  unfold Obligations.BusyAccessesDropWritesAndDrawReads
  intro s a v hs ha
  obtain ⟨l, hl⟩ := exists_busLoc_of_mapped ha
  refine ⟨fun h4 h8 => ?_, fun h0 h4 h8 hC => ?_, ?_, ?_, State.hostWrite_ctrl s v, fun ho => ?_⟩
  · have hw : l.writableBusy = false := by
      rw [← Bool.not_eq_true]
      intro h
      rcases offset_of_writableBusy hl h with rfl | rfl <;> contradiction
    exact State.hostWrite_of_busy hl hw hs v
  · have hr : l.readableBusy = false := by
      rw [← Bool.not_eq_true]
      intro h
      rcases offset_of_readableBusy hl h with rfl | rfl | rfl | rfl <;> contradiction
    exact State.hostRead_of_busy hl hr hs
  · exact s.hostRead_of_readableBusy (l := .id) (by decide) rfl
  · exact s.hostRead_of_readableBusy busLoc_cmd rfl
  · rw [State.hostWrite_status]
    simp [ho]

/-! ## The registers (10_state.md R31 to R47) -/

theorem registerMap_readOnly : ∀ a ∈ [0x00000#17, 0x00020#17, 0x00024#17, 0x00040#17, 0x00044#17, 0x00048#17,
    0x0004C#17, 0x00050#17], ∃ l, busLoc a .word = some l ∧ ∀ (s : State) (v : Word), s.writeLoc v l = s := by
  simp only [List.forall_mem_cons, List.not_mem_nil, false_implies, implies_true, and_true]
  exact ⟨⟨.id, by decide, fun _ _ => rfl⟩, ⟨.res0, by decide, fun _ _ => rfl⟩, ⟨.res1, by decide, fun _ _ => rfl⟩,
    ⟨.moduleCount, by decide, fun _ _ => rfl⟩, ⟨.symVersion, by decide, fun _ _ => rfl⟩,
    ⟨.symMask, by decide, fun _ _ => rfl⟩, ⟨.symEcl, by decide, fun _ _ => rfl⟩, ⟨.bbLen, by decide, fun _ _ => rfl⟩⟩

theorem setWidth_eq_extractLsb' (v : Word) (n : Nat) : v.setWidth n = v.extractLsb' 0 n := by
  ext i hi
  simp

/-- A register's write and read in an idle core, by its place in the map. -/
theorem State.hostWrite_register {s : State} (hs : s.seq = .idle) (v : Word) {a : Addr} (l : Loc)
    (h : busLoc a .word = some l) : s.hostWrite a .word v = (s.writeLoc v l).respond .ok :=
  State.hostWrite_of_idle h hs v

theorem State.resp_hostRead_register {s : State} (hs : s.seq = .idle) {a : Addr} (l : Loc)
    (h : busLoc a .word = some l) : (s.hostRead a .word).resp = .data (s.readLoc l) :=
  congrArg State.resp (State.hostRead_of_idle h hs)

/-- Settles O11: each offset reaches its register, and the register's mask is the width of its field. -/
theorem registerAccessesGoThroughTheirMasks : Obligations.RegisterAccessesGoThroughTheirMasks := by
  unfold Obligations.RegisterAccessesGoThroughTheirMasks
  intro s v hs
  simp only [← setWidth_eq_extractLsb']
  refine ⟨s.exists_hostRead_eq, State.hostWrite_register hs v .arg0 (by decide),
    State.hostWrite_register hs v .arg1 (by decide), State.hostWrite_register hs v .arg2 (by decide),
    State.hostWrite_register hs v .cfgEcl (by decide), State.hostWrite_register hs v .cfgVersion (by decide),
    State.hostWrite_register hs v .segCount (by decide), State.hostWrite_register hs v .cwLen (by decide),
    State.hostWrite_register hs v (.plen .p0) (by decide), State.hostWrite_register hs v (.plen .p1) (by decide),
    State.hostWrite_register hs v (.plen .p2) (by decide), State.hostWrite_register hs v (.plen .p3) (by decide),
    fun a ha => ?_,
    State.resp_hostRead_register hs .id (by decide), State.resp_hostRead_register hs .cmd (by decide),
    State.resp_hostRead_register hs .arg0 (by decide), State.resp_hostRead_register hs .arg1 (by decide),
    State.resp_hostRead_register hs .arg2 (by decide), State.resp_hostRead_register hs .res0 (by decide),
    State.resp_hostRead_register hs .res1 (by decide), State.resp_hostRead_register hs .cfgEcl (by decide),
    State.resp_hostRead_register hs .cfgVersion (by decide), State.resp_hostRead_register hs .segCount (by decide),
    State.resp_hostRead_register hs .moduleCount (by decide), State.resp_hostRead_register hs .symVersion (by decide),
    State.resp_hostRead_register hs .symMask (by decide), State.resp_hostRead_register hs .symEcl (by decide),
    State.resp_hostRead_register hs .bbLen (by decide), State.resp_hostRead_register hs .cwLen (by decide),
    State.resp_hostRead_register hs (.plen .p0) (by decide), State.resp_hostRead_register hs (.plen .p1) (by decide),
    State.resp_hostRead_register hs (.plen .p2) (by decide), State.resp_hostRead_register hs (.plen .p3) (by decide)⟩
  obtain ⟨l, hl, hro⟩ := registerMap_readOnly a ha
  rw [State.hostWrite_register hs v l hl, hro]
  rfl

theorem State.busy_eq_decide (s : State) : s.busy = decide (s.seq ≠ .idle) := by
  unfold State.busy
  cases s.seq <;> simp

theorem State.committed_eq_decide (s : State) : s.committed = decide (s.gridState = .committed) := by
  unfold State.committed
  cases s.gridState <;> decide

theorem State.hostRead_status (s : State) : s.hostRead 0x00008#17 .word = s.respond (.data s.statusWord) :=
  s.hostRead_of_readableBusy busLoc_status rfl

/-- Settles O12: the bits of the STATUS word from its parts, lowest first. -/
theorem statusWordAndWriteOneToClear : Obligations.StatusWordAndWriteOneToClear := by
  unfold Obligations.StatusWordAndWriteOneToClear
  refine fun s => ⟨⟨s.statusWord, s.hostRead_status, ?_⟩, fun v => ?_⟩
  · rw [← State.busy_eq_decide, ← State.committed_eq_decide]
    unfold State.statusWord
    refine ⟨?_, ?_, ?_, ?_, ?_, ?_, ?_⟩
    iterate 4
      · simp only [BitVec.getLsbD_append]
        simp
    all_goals
      ext i hi
      simp (disch := omega) only [BitVec.getElem_extractLsb', BitVec.getLsbD_append, if_pos, if_neg]
      simp [← BitVec.getLsbD_eq_getElem, Nat.sub_sub]
  · rw [State.hostWrite_status]
    have hclear : ∀ f b : Bool, (f && !b) = if b then false else f := by decide
    rw [State.clearFlags, hclear, hclear]
    rfl

end Sys2Proof.Machine
end

section
/-! SUPPORT. The stored windows under host accesses (20_memory.md R86, R87, R90): the offset of each place, and that a
word written reads back through its mask and changes no other place. -/

namespace Sys2Proof.Machine

/-! ## The place of each window word -/

/-- The offset of a window word, 0 for a register. -/
def Loc.base : Loc → Nat
  | .pr k i => prAddr k i
  | .segMode k => segModeAddr k
  | .segPos k => segPosAddr k
  | .bb i => 0x04000 + 4 * i
  | .cw i => cwAddr i
  | .text i => textAddr i
  | _ => 0

theorem PReg.index_ofIndex {k : Nat} (h : k < 4) : PReg.index (PReg.ofIndex k) = k := by
  interval_cases k <;> rfl

@[simp] theorem PReg.ofIndex_index (k : PReg) : PReg.ofIndex (PReg.index k) = k := by cases k <;> rfl

/-- The map gives an offset the place whose offset it is. -/
theorem base_of_locAt {a : Nat} {l : Loc} (h : locAt a = some l) (ha : 0x01000 ≤ a) (h4 : a % 4 = 0) : l.base = a := by
  unfold locAt at h
  rw [if_neg (by omega)] at h
  split_ifs at h with h1 h2 h8 <;> injection h with h <;> subst h
  · have := PReg.index_ofIndex (k := (a - 0x01000) / 0x400) (by omega)
    simp only [Loc.base, prAddr]
    omega
  all_goals
    simp only [Loc.base, segModeAddr, segPosAddr, cwAddr, textAddr]
    omega

theorem offset_toNat {a : Nat} (h : a < 0x20000) : (offset a).toNat = a := Nat.mod_eq_of_lt h

section
variable {i : Nat}

theorem busLoc_pr (k : PReg) (hi : i < 256) : busLoc (offset (prAddr k i)) .word = some (.pr k i) := by
  have hk := PReg.index_lt k
  have ha : prAddr k i = 0x01000 + (0x400 * PReg.index k + 4 * i) := by unfold prAddr; omega
  rw [busLoc_word (by rw [offset_toNat] <;> omega), offset_toNat (by omega), ha]
  simp (disch := omega) only [locAt, if_neg, if_pos, Nat.add_sub_cancel_left]
  rw [show (0x400 * PReg.index k + 4 * i) / 0x400 = PReg.index k by omega,
    show (0x400 * PReg.index k + 4 * i) % 0x400 / 4 = i by omega, PReg.ofIndex_index]

theorem busLoc_segMode (hi : i < 64) : busLoc (offset (segModeAddr i)) .word = some (.segMode i) := by
  unfold segModeAddr
  rw [busLoc_word (by rw [offset_toNat] <;> omega), offset_toNat (by omega)]
  simp (disch := omega) only [locAt, if_neg, if_pos, Nat.add_sub_cancel_left]
  rw [Nat.mul_div_cancel_left i (by decide)]

theorem busLoc_segPos (hi : i < 64) : busLoc (offset (segPosAddr i)) .word = some (.segPos i) := by
  unfold segPosAddr
  rw [busLoc_word (by rw [offset_toNat] <;> omega), offset_toNat (by omega)]
  simp (disch := omega) only [locAt, if_neg, if_pos]
  rw [show (0x02004 + 8 * i - 0x02000) / 8 = i by omega]

theorem busLoc_cw (hi : i < 3706) : busLoc (offset (cwAddr i)) .word = some (.cw i) := by
  unfold cwAddr
  rw [busLoc_word (by rw [offset_toNat] <;> omega), offset_toNat (by omega)]
  simp (disch := omega) only [locAt, if_neg, if_pos, Nat.add_sub_cancel_left]
  rw [Nat.mul_div_cancel_left i (by decide)]

theorem busLoc_text (hi : i < 8192) : busLoc (offset (textAddr i)) .word = some (.text i) := by
  unfold textAddr
  rw [busLoc_word (by rw [offset_toNat] <;> omega), offset_toNat (by omega)]
  simp (disch := omega) only [locAt, if_neg, if_pos, Nat.add_sub_cancel_left]
  rw [Nat.mul_div_cancel_left i (by decide)]

end

/-! ## Words of four bytes (log 9) -/

section
variable {m : Memory} (hm : m.wf = true) (a : Nat) (v : Word)
include hm

theorem Memory.read_writeWord_of_ne {x : Nat} (hx : ∀ j < 4, x ≠ a + j) : (m.writeWord a v).read x = m.read x :=
  Memory.read_writeList_of_ne (Memory.wf_rising hm) fun j hj => by rw [Nat.one_mul]; exact hx j hj

/-- A word written where all four bytes are stored reads back. -/
theorem Memory.readWord_writeWord (hmask : ∀ j < 4, storageMask (a + j) = 0xFF#8) :
    (m.writeWord a v).readWord a = v := by
  have hr := Memory.wf_rising hm
  have hbyte : ∀ j (hj : j < 4), (m.writeWord a v).read (a + j) =
      [v.extractLsb' 0 8, v.extractLsb' 8 8, v.extractLsb' 16 8, v.extractLsb' 24 8][j] := fun j hj => by
    have h := Memory.read_writeList hr (a := a) (k := 1) (i := j) (by decide)
      (bs := [v.extractLsb' 0 8, v.extractLsb' 8 8, v.extractLsb' 16 8, v.extractLsb' 24 8]) hj
    rwa [Nat.one_mul, hmask j hj, and_fullMask] at h
  have h0 := hbyte 0 (by decide)
  have h1 := hbyte 1 (by decide)
  have h2 := hbyte 2 (by decide)
  have h3 := hbyte 3 (by decide)
  rw [Nat.add_zero] at h0
  rw [Memory.readWord, h0, h1, h2, h3]
  ext i hi
  simp only [List.getElem_cons_zero, List.getElem_cons_succ, BitVec.getElem_append, BitVec.getElem_extractLsb']
  split_ifs <;> rw [← BitVec.getLsbD_eq_getElem] <;> congr 1 <;> omega

end

/-! ## What an access to a window place touches -/

/-- A read of a place looks at no byte of the windows but its own four. -/
theorem State.readLoc_setMem_congr (s : State) {m : Memory} (l : Loc)
    (h : ∀ j < 4, m.read (l.base + j) = s.mem.read (l.base + j)) : (s.setMem m).readLoc l = s.readLoc l := by
  have h0 := h 0 (by decide)
  have hw : m.readWord l.base = s.mem.readWord l.base := by
    simp only [Memory.readWord, h 3 (by decide), h 2 (by decide), h 1 (by decide)]
    rw [Nat.add_zero] at h0
    rw [h0]
  cases l with
  | pr k i => exact congrArg (BitVec.setWidth 32) h0
  | segMode k => exact congrArg (fun b => (BitVec.extractLsb' 0 4 b).setWidth 32) h0
  | segPos k => exact hw
  | cw i => exact congrArg (BitVec.setWidth 32) h0
  | text i => exact hw
  | plen k => cases k <;> rfl
  | _ => rfl

/-- A write to a window place leaves every byte but its own four. -/
theorem State.exists_writeLoc_eq_setMem {s : State} (hm : s.MemoryCanonical) (v : Word) {a : Nat} {l : Loc}
    (hl : locAt a = some l) (ha : 0x01000 ≤ a) (h4 : a % 4 = 0) :
    ∃ m, s.writeLoc v l = s.setMem m ∧ ∀ x, (∀ j < 4, x ≠ a + j) → m.read x = s.mem.read x := by
  have hbase := base_of_locAt hl ha h4
  have hbyte : ∀ (b : Byte) x, (∀ j < 4, x ≠ a + j) → (s.mem.write a b).read x = s.mem.read x := fun b x hx => by
    rw [Memory.read_write (Memory.wf_rising hm), if_neg (by simpa using hx 0 (by decide))]
  have hword : ∀ x, (∀ j < 4, x ≠ a + j) → (s.mem.writeWord a v).read x = s.mem.read x :=
    fun x hx => Memory.read_writeWord_of_ne hm a v hx
  rcases locAt_cases hl with ⟨hlt, -⟩ | ⟨-, ⟨k, i, rfl⟩ | ⟨i, rfl⟩ | ⟨i, rfl⟩ | ⟨i, rfl⟩ | ⟨i, rfl⟩ | ⟨i, rfl⟩⟩
  · omega
  · exact ⟨_, rfl, hbase ▸ hbyte (v.setWidth 8)⟩
  · exact ⟨_, rfl, hbase ▸ hbyte (v.setWidth 8)⟩
  · exact ⟨_, rfl, hbase ▸ hword⟩
  · exact ⟨s.mem, rfl, fun _ _ => rfl⟩
  · exact ⟨_, rfl, hbase ▸ hbyte (v.setWidth 8)⟩
  · exact ⟨_, rfl, hbase ▸ hword⟩

/-- A write to a window place changes what no other offset reads. -/
theorem State.readLoc_writeLoc_of_ne {s : State} (hm : s.MemoryCanonical) (v : Word) {a b : Nat} {l l' : Loc}
    (hl : locAt a = some l) (ha : 0x01000 ≤ a) (ha4 : a % 4 = 0) (hl' : locAt b = some l') (hb4 : b % 4 = 0)
    (hab : b ≠ a) : (s.writeLoc v l).readLoc l' = s.readLoc l' := by
  obtain ⟨m, heq, hread⟩ := State.exists_writeLoc_eq_setMem hm v hl ha ha4
  have hbase : l'.base = 0 ∨ l'.base = b := by
    rcases locAt_cases hl' with ⟨-, rfl | hmem⟩ | ⟨hb, -⟩
    · exact .inl rfl
    · have : ∀ p ∈ registerMap, p.2.base = 0 := by decide
      exact .inl (this _ hmem)
    · exact .inr (base_of_locAt hl' hb hb4)
  rw [heq]
  exact s.readLoc_setMem_congr l' fun j hj => hread _ (by omega)

/-! ## Reading back -/

/-- What an idle core answers when a location is written and then read. -/
theorem State.resp_hostRead_hostWrite {s : State} (hs : s.seq = .idle) (v : Word) {a b : Addr} {l l' : Loc}
    (ha : busLoc a .word = some l) (hb : busLoc b .word = some l') (hidle : (s.writeLoc v l).seq = .idle) :
    ((s.hostWrite a .word v).hostRead b .word).resp = .data ((s.writeLoc v l).readLoc l') := by
  rw [State.hostWrite_of_idle ha hs, State.hostRead_of_idle hb (by simpa using hidle)]
  cases l' with
  | plen k => cases k <;> rfl
  | _ => rfl

theorem setWidth_setWidth_byte (v : Word) : (v.setWidth 8).setWidth 32 = v &&& 0x000000FF#32 := by
  ext i hi
  have hmask : (0x000000FF#32).getLsbD i = decide (i < 8) := by revert i; decide
  simp [← BitVec.getLsbD_eq_getElem, hmask, hi, Bool.and_comm]

theorem setWidth_mode_nibble (v : Word) :
    (((v.setWidth 8) &&& 0x0F#8).extractLsb' 0 4).setWidth 32 = v &&& 0x0000000F#32 := by
  ext i hi
  have hmask : (0x0000000F#32).getLsbD i = decide (i < 4) := by revert i; decide
  have hmask8 : (0x0F#8).getLsbD i = decide (i < 4) := by
    by_cases h8 : i < 8
    · revert i; decide
    · rw [BitVec.getLsbD_of_ge _ _ (by omega)]; simp; omega
  rw [← BitVec.getLsbD_eq_getElem, ← BitVec.getLsbD_eq_getElem]
  simp only [BitVec.getLsbD_setWidth, BitVec.getLsbD_extractLsb', BitVec.getLsbD_and, Nat.zero_add, hmask8, hmask]
  by_cases h4 : i < 4
  · simp [h4, hi, show i < 8 by omega]
  · simp [h4]

/-- Settles O10: each place stores the bits of its mask, and two places share no byte. -/
theorem storedWindowsReadBack : Obligations.StoredWindowsReadBack := by
  unfold Obligations.StoredWindowsReadBack
  intro s v hs hm
  have hr := Memory.wf_rising hm
  have hbyte : ∀ {a : Nat}, storageMask a = 0xFF#8 → ((s.mem.write a (v.setWidth 8)).read a).setWidth 32 =
      v &&& 0x000000FF#32 := fun hmask => by
    rw [Memory.read_write hr, if_pos rfl, hmask, and_fullMask, setWidth_setWidth_byte]
  refine ⟨fun k i hi => ?_, fun i hi => ?_, fun k hk => ?_, fun k hk => ?_, fun i hi => ?_, fun a b ha h1000 hab => ?_⟩
  · rw [State.resp_hostRead_hostWrite hs v (busLoc_pr k hi) (busLoc_pr k hi) hs]
    exact congrArg _ (hbyte (storageMask_prAddr k hi))
  · rw [State.resp_hostRead_hostWrite hs v (busLoc_cw hi) (busLoc_cw hi) hs]
    exact congrArg _ (hbyte (storageMask_cwAddr hi))
  · rw [State.resp_hostRead_hostWrite hs v (busLoc_segMode hk) (busLoc_segMode hk) hs]
    simp only [State.writeLoc, State.readLoc, State.segMode, State.setMem_mem]
    rw [Memory.read_write hr, if_pos rfl, storageMask_segModeAddr hk, setWidth_mode_nibble]
  · rw [State.resp_hostRead_hostWrite hs v (busLoc_segPos hk) (busLoc_segPos hk) hs]
    exact congrArg _ (Memory.readWord_writeWord hm _ v fun j hj => storageMask_segPosAddr hk hj)
  · rw [State.resp_hostRead_hostWrite hs v (busLoc_text hi) (busLoc_text hi) hs]
    exact congrArg _ (Memory.readWord_writeWord hm _ v fun j hj => storageMask_textAddr hi hj)
  · obtain ⟨l, hl⟩ := exists_busLoc_of_mapped ha
    obtain ⟨-, ha4, hla⟩ := busLoc_eq_some hl
    cases hl' : busLoc b .word with
    | none =>
      rw [State.hostRead_of_none hl', State.hostRead_of_none hl']
      rfl
    | some l' =>
      obtain ⟨-, hb4, hlb⟩ := busLoc_eq_some hl'
      have hidle : (s.writeLoc v l).seq = .idle := by
        obtain ⟨m, heq, -⟩ := State.exists_writeLoc_eq_setMem hm v hla h1000 ha4
        rw [heq]
        exact hs
      rw [State.resp_hostRead_hostWrite hs v hl hl' hidle, State.hostRead_of_idle hl' hs,
        State.readLoc_writeLoc_of_ne hm v hla h1000 ha4 hlb hb4 (fun h => hab (BitVec.eq_of_toNat_eq h))]
      rfl

end Sys2Proof.Machine
end

section
/-! SUPPORT. The step (60_exceptions.md R381, 70_reset_and_hazards.md R432, R440) and the reset input (R420, R421). -/

namespace Sys2Proof.Machine

/-! ## One step of a released core -/

section
variable {s : State} {e : BusEvent} {rest : List BusEvent}

theorem step_of_idle_nil (hr : s.rst = false) (hs : s.seq = .idle) (hb : s.bus = []) : step s = .next s := by
  simp [step, hr, hs, hb]

theorem step_of_idle_cons (hr : s.rst = false) (hs : s.seq = .idle) (hb : s.bus = e :: rest) :
    step s = .next ({ s with bus := rest }.busEvent e) := by
  simp [step, hr, hs, hb, State.hostTurn]

theorem step_of_busy_succ {w : Word} {n : Nat} (hr : s.rst = false) (hs : s.seq = .busy w (n + 1))
    (hb : s.bus = e :: rest) : step s = .next ({ s with bus := rest, seq := .busy w n }.busEvent e) := by
  simp [step, hr, hs, hb, State.hostTurn]

theorem step_of_decode_ok {w : Word} {n : Nat} {i : Instr} (hr : s.rst = false) (hs : s.seq = .busy w n)
    (hn : n = 0 ∨ s.bus = []) (hi : decode w = .ok i) : step s = exec i s := by
  rw [step_eq_runCommand hr hs hn, runCommand_ok hi]

theorem step_of_rst (hr : s.rst = true) : step s = .next s.heldTurn := by simp only [step, hr, if_true]

end

theorem State.busEvent_write {s : State} (hr : s.rst = false) (a : Addr) (w : Width) (v : Word) :
    s.busEvent (.write a w v) = s.hostWrite a w v := by
  simp [State.busEvent, hr]

theorem State.busEvent_write_of_rst {s : State} (hr : s.rst = true) (a : Addr) (w : Width) (v : Word) :
    s.busEvent (.write a w v) = s.heldWrite a w := by
  simp [State.busEvent, hr]

/-- What `withFetchWord` places is the command's word. -/
theorem decode_fetchWord (i : Instr) : decode (BitVec.ofNat 32 ((encode i).toNat % 2 ^ 32)) = .ok i := by
  rw [Nat.mod_eq_of_lt (encode i).isLt, BitVec.ofNat_toNat, BitVec.setWidth_eq, decode_encode]

/-- Settles O4: the step's cases, and the CMD write as the acceptance of R381. -/
theorem stepRunsTheCapturedCommandOrTheHost : Obligations.StepRunsTheCapturedCommandOrTheHost := by
  unfold Obligations.StepRunsTheCapturedCommandOrTheHost
  refine fun s => ⟨fun hr => ⟨fun w n i hs hn hi => step_of_decode_ok hr hs hn hi, step_of_idle_nil hr,
    fun e rest hs hb => step_of_idle_cons hr hs hb, fun w n e rest hs hb => step_of_busy_succ hr hs hb,
    fun w rest hs hb => ?_⟩, fun i => step_of_decode_ok rfl rfl (.inl rfl) (decode_fetchWord i)⟩
  rw [step_of_idle_cons hr hs hb, State.busEvent_write (s := { s with bus := rest }) hr,
    State.hostWrite_cmd_of_idle (s := { s with bus := rest }) hs]
  rfl

/-! ## The end of a captured command (70_reset_and_hazards.md R440) -/

/-- The part of the state that decides whether a captured command still waits: a read or a write while BUSY leaves it. -/
theorem State.hostWrite_of_busy_keeps {s : State} (hs : s.busy = true) (a : Addr) (w : Width) (v : Word) :
    (s.hostWrite a w v).seq = s.seq ∧ (s.hostWrite a w v).rst = s.rst ∧ (s.hostWrite a w v).bus = s.bus := by
  cases hl : busLoc a w with
  | none =>
    rw [State.hostWrite_of_none hl]
    exact ⟨rfl, rfl, rfl⟩
  | some l =>
    cases hw : l.writableBusy with
    | false =>
      rw [State.hostWrite_of_busy hl hw hs]
      exact ⟨rfl, rfl, rfl⟩
    | true =>
      rw [State.hostWrite_of_writableBusy hl hw]
      cases l with
      | ctrl => exact ⟨rfl, rfl, rfl⟩
      | status => exact ⟨rfl, rfl, rfl⟩
      | _ => cases hw

/-- Any host action but the assertion of the reset input leaves a captured command waiting. -/
theorem State.busEvent_of_busy_keeps {s : State} (hr : s.rst = false) (hs : s.busy = true) {e : BusEvent}
    (he : ∀ c, e ≠ .rstAssert c) :
    (s.busEvent e).seq = s.seq ∧ (s.busEvent e).rst = false ∧ (s.busEvent e).bus = s.bus := by
  cases e with
  | read a w =>
    obtain ⟨r, d, heq⟩ := s.exists_hostRead_eq a w
    rw [State.busEvent, heq]
    exact ⟨rfl, hr, rfl⟩
  | write a w v =>
    rw [State.busEvent_write hr, ← hr]
    exact State.hostWrite_of_busy_keeps hs a w v
  | rstAssert c => exact absurd rfl (he c)
  | rstRelease => exact ⟨rfl, rfl, rfl⟩

theorem State.busEvent_rstAssert {s : State} (hr : s.rst = false) (c : List Host.Cell) :
    s.busEvent (.rstAssert c) = ((s.hardReset c).setRst true).respond .none := by
  simp [State.busEvent, State.assertRst, hr]

theorem State.assertRst_of_rst {s : State} (hr : s.rst = true) (c : List Host.Cell) : s.assertRst c = s := if_pos hr

theorem State.busy_heldTurn {s : State} (hr : s.rst = true) : s.heldTurn.busy = false := by
  obtain ⟨r, h⟩ := heldTurn_registers s hr
  rw [h]
  rfl

/-- The step that runs the captured word, a command's or not, completes. -/
theorem exists_step_complete {s : State} {w : Word} {n : Nat} (hr : s.rst = false) (hs : s.seq = .busy w n)
    (hn : n = 0 ∨ s.bus = []) : ∃ u e, step s = .next (State.complete u e) := by
  rw [step_eq_runCommand hr hs hn]
  cases hd : decode w with
  | error e => exact ⟨s, .illegalCommand, runCommand_error hd s⟩
  | ok i =>
    rw [runCommand_ok hd]
    exact exec_completes i s

theorem run_succ_of_step {M : Host.Core} {s t : M.State} (h : M.step s = .next t) (k : Nat) :
    M.run (k + 1) s = M.run k t := by
  rw [Host.Core.run, h]

/-- Settles O7: by induction on the accesses to come. The command runs, or one access passes, or the reset input ends
the wait. -/
theorem commandFinishesWithinItsDelay : Obligations.CommandFinishesWithinItsDelay := by
  unfold Obligations.CommandFinishesWithinItsDelay
  intro s w n hs
  induction n generalizing s with
  | zero =>
    cases hr : s.rst with
    | true => exact ⟨1, _, le_rfl, run_succ_of_step (M := Sys2Proof.core) (step_of_rst hr) 0, State.busy_heldTurn hr, by simp⟩
    | false =>
      obtain ⟨u, e, hstep⟩ := exists_step_complete hr hs (.inl rfl)
      exact ⟨1, _, le_rfl, run_succ_of_step (M := Sys2Proof.core) hstep 0, rfl, fun _ _ => rfl⟩
  | succ n ih =>
    cases hr : s.rst with
    | true => exact ⟨1, _, by omega, run_succ_of_step (M := Sys2Proof.core) (step_of_rst hr) 0, State.busy_heldTurn hr, by simp⟩
    | false =>
      cases hb : s.bus with
      | nil =>
        obtain ⟨u, e, hstep⟩ := exists_step_complete hr hs (.inr hb)
        exact ⟨1, _, by omega, run_succ_of_step (M := Sys2Proof.core) hstep 0, rfl, fun _ _ => rfl⟩
      | cons e rest =>
        have hstep := step_of_busy_succ hr hs hb
        by_cases he : ∃ c, e = .rstAssert c
        · obtain ⟨c, rfl⟩ := he
          refine ⟨1, _, by omega, run_succ_of_step (M := Sys2Proof.core) hstep 0, ?_, fun _ hc => absurd (by simp) (hc c)⟩
          rw [State.busEvent_rstAssert (s := { s with bus := rest, seq := .busy w n }) hr]
          rfl
        · obtain ⟨hseq, hrst, hbus⟩ := State.busEvent_of_busy_keeps (s := { s with bus := rest, seq := .busy w n })
            hr rfl (e := e) (fun c hc => he ⟨c, hc⟩)
          obtain ⟨k, t, hk, hrun, hbusy, hdone⟩ := ih _ hseq
          refine ⟨k + 1, t, by omega, (run_succ_of_step (M := Sys2Proof.core) hstep k).trans hrun, hbusy,
            fun _ hc => hdone hrst fun c hmem => ?_⟩
          rw [hbus] at hmem
          exact hc c (by simp only [List.take_succ_cons, List.mem_cons]; exact .inr hmem)

/-! ## The reset input (70_reset_and_hazards.md R420, R421) -/

theorem Memory.set_of_lt {m : Memory} {a : Nat} {b : Byte} (h : ∀ d ∈ m, a < d.1) (hb : b ≠ 0#8) :
    Memory.set m a b = (a, b) :: m := by
  cases m with
  | nil => simp [Memory.set, hb]
  | cons c t =>
    have hac : a < c.1 := h c (by simp)
    simp [Memory.set, hac, hb]

/-- A canonical memory is the one its own entries give, so every contents is some assertion's. -/
theorem Memory.ofCells_of_wf {m : Memory} (hm : m.wf = true) : Memory.ofCells m = m := by
  induction m with
  | nil => rfl
  | cons c t ih =>
    obtain ⟨hlt, hc, ht⟩ := Memory.wf_cons.mp hm
    simp only [cellOk, Bool.and_eq_true, bne_iff_ne, beq_iff_eq] at hc
    rw [Memory.ofCells, ih ht, Memory.write, hc.2, Memory.set_of_lt hlt hc.1]

theorem State.resetRegisters_eq (s : State) : s.resetRegisters = { State.reset with
    mem := s.mem, rst := s.rst, bus := s.bus, resp := s.resp, latency := s.latency, draws := s.draws } := rfl

theorem State.busEvent_rstAssert_eq {s : State} (hr : s.rst = false) (c : List Host.Cell) :
    s.busEvent (.rstAssert c) = { State.reset with
      mem := Memory.ofCells c, rst := true, bus := s.bus, latency := s.latency, draws := s.draws } :=
  State.busEvent_rstAssert hr c

/-- A step of a held core with a host action pending: the action meets the reset values. -/
theorem step_of_rst_cons {s : State} (hr : s.rst = true) {e : BusEvent} {rest : List BusEvent} (hb : s.bus = e :: rest) :
    step s = .next (State.busEvent { State.reset with
      mem := s.mem, rst := true, bus := s.bus.tail, resp := s.resp, latency := s.latency, draws := s.draws } e) := by
  rw [step_of_rst hr, State.heldTurn, hb, State.resetRegisters_eq, hr]
  rfl

/-- Settles O15: the reset values by their definition, and each host action of a held core. -/
theorem hardResetGivesTheStatedValues : Obligations.HardResetGivesTheStatedValues := by
  unfold Obligations.HardResetGivesTheStatedValues
  refine ⟨⟨rfl, rfl, rfl, rfl, rfl, rfl, rfl, rfl, rfl, rfl, rfl, rfl, rfl, rfl, rfl, rfl, rfl, fun k => ?_, rfl, rfl⟩,
    fun s => ⟨fun hr => ⟨fun c => ⟨_, Memory.wf_ofCells c, State.busEvent_rstAssert_eq hr c⟩, fun m hm => ?_, ?_⟩,
      fun hr held hheld => ⟨fun hb => ?_, fun a w rest hb => ?_, fun a w v rest hb hw hmap => ?_,
        fun a w v rest hb hnot => ?_, fun c rest hb => ?_, fun rest hb => ?_⟩⟩⟩
  · cases k <;> rfl
  · refine ⟨m, ?_⟩
    rw [State.busEvent_rstAssert_eq hr, Memory.ofCells_of_wf hm]
  · rw [State.busEvent, State.setRst, ← hr]
    rfl
  · rw [hheld, step_of_rst hr, State.heldTurn, hb, State.resetRegisters_eq, hr, hb]
    rfl
  all_goals
    rw [step_of_rst_cons hr hb, ← hheld]
    have hrst : held.rst = true := by rw [hheld]
  · rfl
  · obtain ⟨l, hl⟩ := exists_busLoc_of_mapped hmap
    rw [State.busEvent_write_of_rst hrst, hw, State.heldWrite_of_some hl]
    rfl
  · rw [State.busEvent_write_of_rst hrst, State.heldWrite_of_none (busLoc_eq_none_of_not_mapped hnot)]
    rfl
  · rw [State.busEvent, State.assertRst_of_rst hrst]
    rfl
  · rfl

end Sys2Proof.Machine
end

section
/-! SUPPORT. The field GF(256) by its logarithms (40_gf_poly.md R140 to R144, R156): EXP and LOG are inverse to each
other, and multiplying by a power of α is repeated doubling, which is linear over XOR. -/

namespace Sys2Proof.Machine

/-! ## EXP and LOG -/

theorem romAt_expRom_ne_zero : ∀ n < 255, romAt expRom n ≠ 0#8 := by decide +kernel

theorem romAt_logRom_romAt_expRom : ∀ n < 255, (romAt logRom (romAt expRom n).toNat).toNat = n := by decide +kernel

theorem gfExp_ne_zero (n : Int) : gfExp n ≠ 0#8 := romAt_expRom_ne_zero _ (by omega)

theorem gfExp_congr {m n : Int} (h : m % 255 = n % 255) : gfExp m = gfExp n := by rw [gfExp, gfExp, h]

theorem toNat_ne_zero_of_ne {x : Byte} (h : x ≠ 0#8) : x.toNat ≠ 0 := fun hc => h (BitVec.eq_of_toNat_eq hc)

theorem dlog_lt {x : Byte} (h : x ≠ 0#8) : dlog x < 255 :=
  (romAt_expRom_romAt_logRom x.toNat x.isLt (Nat.pos_of_ne_zero (toNat_ne_zero_of_ne h))).1

theorem gfExp_dlog {x : Byte} (h : x ≠ 0#8) : gfExp (dlog x) = x := by
  obtain ⟨hlt, hexp⟩ := romAt_expRom_romAt_logRom x.toNat x.isLt (Nat.pos_of_ne_zero (toNat_ne_zero_of_ne h))
  have hmod : ((dlog x : Int) % 255).toNat = dlog x := by have := dlog_lt h; omega
  rw [gfExp, hmod]
  exact BitVec.eq_of_toNat_eq hexp

theorem dlog_gfExp (n : Int) : (dlog (gfExp n) : Int) = n % 255 := by
  rw [dlog, gfExp, romAt_logRom_romAt_expRom _ (by omega)]
  omega

/-- Settles O17: the tables by doubling and by each other, and the ranges of `log`. -/
theorem gfTablesAreThePowersOfAlpha : Obligations.GfTablesAreThePowersOfAlpha := by
  unfold Obligations.GfTablesAreThePowersOfAlpha
  refine ⟨fun n => ⟨gfExp_eq_iterate n, gfExp_ne_zero n, gfExp_congr (by omega)⟩, fun n h1 h255 => ?_, fun l hl => ?_,
    fun n h => gfLog_of_lt_one h, fun n h => gfLog_of_gt h⟩
  · obtain ⟨l, hl, hpow, hlog⟩ := exists_gfLog_eq_of_mem_range h1 h255
    have hmod : ((l : Int) % 255).toNat = l := by omega
    exact ⟨l, hl, hlog, by rw [gfExp_eq_iterate, hmod, hpow]⟩
  · have hne := toNat_ne_zero_of_ne (gfExp_ne_zero l)
    have hlt := (gfExp l).isLt
    have hlog : dlog (gfExp l) = l := by have := dlog_gfExp l; omega
    rw [gfLog, if_neg (by omega), if_neg (by omega), Int.toNat_natCast, ← dlog, hlog]

/-! ## The product -/

@[simp] theorem gfMul_zero_left (y : Byte) : gfMul 0#8 y = 0#8 := if_pos (.inl rfl)

@[simp] theorem gfMul_zero_right (x : Byte) : gfMul x 0#8 = 0#8 := if_pos (.inr rfl)

theorem gfMul_of_ne {x y : Byte} (hx : x ≠ 0#8) (hy : y ≠ 0#8) :
    gfMul x y = gfExp ((dlog x : Int) + (dlog y : Int)) := if_neg (by simp [hx, hy])

theorem gfMul_ne_zero {x y : Byte} (hx : x ≠ 0#8) (hy : y ≠ 0#8) : gfMul x y ≠ 0#8 := by
  rw [gfMul_of_ne hx hy]
  exact gfExp_ne_zero _

theorem gfMul_gfExp {y : Byte} (n : Int) (hy : y ≠ 0#8) : gfMul (gfExp n) y = gfExp (n + dlog y) := by
  rw [gfMul_of_ne (gfExp_ne_zero n) hy, dlog_gfExp]
  exact gfExp_congr (by omega)

theorem gfMul_comm (x y : Byte) : gfMul x y = gfMul y x := by
  unfold gfMul
  rw [Int.add_comm]
  exact if_congr or_comm rfl rfl

@[simp] theorem gfMul_one_left (y : Byte) : gfMul 1#8 y = y := by
  by_cases hy : y = 0#8
  · rw [hy, gfMul_zero_right]
  · have h := gfMul_gfExp 0 hy
    rw [Int.zero_add, gfExp_dlog hy] at h
    exact h

/-! ## Powers of α as repeated doubling -/

theorem gfDouble_zero : gfDouble 0#8 = 0#8 := by decide

theorem gfDouble_xor_basis : ∀ x : Byte, gfDouble x =
    (x <<< 1) ^^^ (if x.getLsbD 7 then 0x1D#8 else 0#8) := by decide +kernel

theorem gfDouble_xor (x y : Byte) : gfDouble (x ^^^ y) = gfDouble x ^^^ gfDouble y := by
  have hxor : ∀ a b : Bool, (if (a ^^ b) = true then 0x1D#8 else 0#8) =
      (if a = true then 0x1D#8 else 0#8) ^^^ (if b = true then 0x1D#8 else 0#8) := by decide
  rw [gfDouble_xor_basis, gfDouble_xor_basis x, gfDouble_xor_basis y, BitVec.getLsbD_xor, hxor,
    BitVec.shiftLeft_xor_distrib]
  ac_rfl

theorem iterate_gfDouble_zero (i : Nat) : gfDouble^[i] 0#8 = 0#8 := Function.iterate_fixed gfDouble_zero i

theorem iterate_gfDouble_xor (i : Nat) (x y : Byte) :
    gfDouble^[i] (x ^^^ y) = gfDouble^[i] x ^^^ gfDouble^[i] y := by
  induction i generalizing x y with
  | zero => rfl
  | succ i ih => rw [Function.iterate_succ_apply, gfDouble_xor, ih, ← Function.iterate_succ_apply,
      ← Function.iterate_succ_apply]

theorem gfDouble_gfExp (n : Int) : gfDouble (gfExp n) = gfExp (n + 1) := by
  have hlast : gfDouble (romAt expRom 254) = romAt expRom 0 := by decide
  rcases Nat.lt_or_ge (n % 255).toNat 254 with h | h
  · rw [gfExp, ← romAt_expRom_succ _ h, gfExp]
    congr 1
    omega
  · rw [gfExp, gfExp, show (n % 255).toNat = 254 by omega, hlast]
    congr 1
    omega

theorem iterate_gfDouble_gfExp (i : Nat) (n : Int) : gfDouble^[i] (gfExp n) = gfExp (n + i) := by
  induction i generalizing n with
  | zero => simp
  | succ i ih =>
    rw [Function.iterate_succ_apply, gfDouble_gfExp, ih]
    congr 1
    push_cast
    ring

/-- Multiplying by α^i is doubling i times. -/
theorem gfMul_gfExp_eq_iterate (i : Nat) (y : Byte) : gfMul (gfExp i) y = gfDouble^[i] y := by
  by_cases hy : y = 0#8
  · rw [hy, gfMul_zero_right, iterate_gfDouble_zero]
  · rw [gfMul_gfExp _ hy, Int.add_comm, ← iterate_gfDouble_gfExp, gfExp_dlog hy]

theorem iterate_gfDouble_of_eq_255 {e : Nat} (he : e = 255) {y : Byte} : gfDouble^[e] y = y := by
  by_cases hy : y = 0#8
  · rw [hy, iterate_gfDouble_zero]
  · rw [← gfExp_dlog hy, iterate_gfDouble_gfExp]
    exact gfExp_congr (by omega)

theorem iterate_gfDouble_ne_zero (i : Nat) {y : Byte} (hy : y ≠ 0#8) : gfDouble^[i] y ≠ 0#8 := by
  rw [← gfExp_dlog hy, iterate_gfDouble_gfExp]
  exact gfExp_ne_zero _

/-- The powers α^0 … α^254 are different. -/
theorem iterate_gfDouble_inj {i j : Nat} (hi : i < 255) (hj : j < 255) {y : Byte} (hy : y ≠ 0#8)
    (h : gfDouble^[i] y = gfDouble^[j] y) : i = j := by
  rw [← gfExp_dlog hy, iterate_gfDouble_gfExp, iterate_gfDouble_gfExp] at h
  have := congrArg (fun b => (dlog b : Int)) h
  simp only [dlog_gfExp] at this
  omega

end Sys2Proof.Machine
end

section
/-! SUPPORT. Polynomials (40_gf_poly.md R142, R147, R149): normal form, the coefficients of a product, and long division
on lists of a fixed length, which `pmod` computes up to leading zeros. -/

namespace Sys2Proof.Machine

/-! ## Coefficients -/

/-- A list of coefficients is determined by its length and its entries. -/
theorem ext_getD {p q : List Byte} (hl : p.length = q.length) (h : ∀ k < p.length, p.getD k 0#8 = q.getD k 0#8) :
    p = q := by
  refine List.ext_getElem hl fun k hp hq => ?_
  have := h k hp
  rwa [List.getD_eq_getElem _ _ hp, List.getD_eq_getElem _ _ hq] at this

theorem getD_replicate_zero (n k : Nat) : (List.replicate n (0#8 : Byte)).getD k 0#8 = 0#8 := by
  rw [List.getD, List.getElem?_replicate]
  split_ifs <;> rfl

@[simp] theorem xorInto_nil (a : List Byte) : xorInto a [] = a := by cases a <;> rfl

theorem getD_xorInto {a b : List Byte} (h : b.length ≤ a.length) (k : Nat) :
    (xorInto a b).getD k 0#8 = a.getD k 0#8 ^^^ b.getD k 0#8 := by
  induction a generalizing b k with
  | nil =>
    obtain rfl : b = [] := List.length_eq_zero_iff.mp (by simpa using h)
    simp
  | cons x a ih =>
    cases b with
    | nil => simp
    | cons y b =>
      cases k with
      | zero => rfl
      | succ k => exact ih (by simpa using h) k

theorem xorInto_replicate_zero (a : List Byte) (n : Nat) : xorInto a (List.replicate n 0#8) = a := by
  induction a generalizing n with
  | nil => rfl
  | cons x a ih =>
    cases n with
    | zero => rfl
    | succ n => simp [List.replicate_succ, xorInto, ih]

theorem xorInto_self (a : List Byte) : xorInto a a = List.replicate a.length 0#8 := by
  induction a with
  | nil => rfl
  | cons x a ih => simp [xorInto, ih, List.replicate_succ]

theorem xorInto_right_comm (a b c : List Byte) : xorInto (xorInto a b) c = xorInto (xorInto a c) b := by
  induction a generalizing b c with
  | nil => rfl
  | cons x a ih =>
    cases b with
    | nil => simp
    | cons y b =>
      cases c with
      | nil => simp
      | cons z c =>
        simp only [xorInto, ih b c]
        congr 1
        ac_rfl

/-! ## The normal form (R142) -/

theorem norm_replicate_append (n : Nat) {p : List Byte} (hp : p ≠ []) : norm (List.replicate n 0#8 ++ p) = norm p := by
  induction n with
  | zero => rfl
  | succ n ih =>
    obtain ⟨y, t, hyt⟩ := List.exists_cons_of_ne_nil (l := List.replicate n 0#8 ++ p) (by simp [hp])
    rw [List.replicate_succ, List.cons_append, hyt, norm_cons_zero, ← hyt, ih]

theorem norm_replicate_zero {n : Nat} (hn : 0 < n) : norm (List.replicate n 0#8) = [0#8] := by
  obtain ⟨n, rfl⟩ := Nat.exists_eq_add_one.mpr hn
  rw [List.replicate_succ']
  exact norm_replicate_append n (by simp)

/-- What `norm` removes and what it leaves. -/
theorem exists_replicate_append_norm {p : List Byte} (hp : p ≠ []) :
    (∃ k, p = List.replicate k 0#8 ++ norm p) ∧ (norm p = [0#8] ∨ (norm p).head? ≠ some 0#8) := by
  induction p with
  | nil => exact absurd rfl hp
  | cons x t ih =>
    cases t with
    | nil =>
      refine ⟨⟨0, rfl⟩, ?_⟩
      by_cases hx : x = 0#8
      · exact .inl (by rw [hx]; rfl)
      · exact .inr (by simpa using hx)
    | cons y t =>
      by_cases hx : x = 0#8
      · subst hx
        obtain ⟨⟨k, hk⟩, hhead⟩ := ih (by simp)
        rw [norm_cons_zero]
        exact ⟨⟨k + 1, by rw [List.replicate_succ, List.cons_append, ← hk]⟩, hhead⟩
      · rw [norm_cons_of_ne hx]
        exact ⟨⟨0, rfl⟩, .inr (by simpa using hx)⟩

theorem norm_of_head_ne_zero {p : List Byte} (h : p.head? ≠ some 0#8) : norm p = p := by
  cases p with
  | nil => rfl
  | cons x t => exact norm_cons_of_ne (fun hx => h (by simp [hx])) t

theorem norm_norm (p : List Byte) : norm (norm p) = norm p := by
  cases p with
  | nil => rfl
  | cons x t =>
    rcases (exists_replicate_append_norm (p := x :: t) (by simp)).2 with h | h
    · rw [h]
      rfl
    · exact norm_of_head_ne_zero h

theorem head_ne_zero_of_norm_eq {x : Byte} {t : List Byte} (h : norm (x :: t) = x :: t) (ht : t ≠ []) : x ≠ 0#8 := by
  rintro rfl
  obtain ⟨y, u, rfl⟩ := List.exists_cons_of_ne_nil ht
  have hlen := length_norm_le (y :: u)
  rw [norm_cons_zero] at h
  rw [h] at hlen
  simp at hlen

/-- A list without a zero coefficient is in normal form. -/
theorem norm_of_forall_ne_zero {p : List Byte} (h : ∀ x ∈ p, x ≠ 0#8) : norm p = p := by
  refine norm_of_head_ne_zero fun h0 => ?_
  cases p with
  | nil => cases h0
  | cons x t => exact h x (by simp) (by simpa using h0)

/-- A nonempty list with a nonzero entry keeps everything from that entry on. -/
theorem length_lt_norm_append {d t : List Byte} (hd : ∃ x ∈ d, x ≠ 0#8) : t.length < (norm (d ++ t)).length := by
  induction d with
  | nil => simp at hd
  | cons x d ih =>
    by_cases hx : x = 0#8
    · subst hx
      obtain ⟨y, hy, hne⟩ := hd
      have hmem : y ∈ d := (List.mem_cons.mp hy).resolve_left hne
      obtain ⟨z, u, hzu⟩ := List.exists_cons_of_ne_nil (l := d ++ t) (by simp [List.ne_nil_of_mem hmem])
      rw [List.cons_append, hzu, norm_cons_zero, ← hzu]
      exact ih ⟨y, hmem, hne⟩
    · rw [List.cons_append, norm_cons_of_ne hx]
      simp

@[simp] theorem State.length_polyRaw (s : State) (k : PReg) : (s.polyRaw k).length = (s.plen k).toNat := by
  simp [State.polyRaw]

theorem State.polyRaw_getD {s : State} {k : PReg} {i : Nat} (hi : i < (s.plen k).toNat) :
    (s.polyRaw k).getD i 0#8 = s.mem.read (prAddr k i) := by
  rw [List.getD_eq_getElem _ _ (by simpa using hi)]
  simp [State.polyRaw]

/-- Settles O20: the shape of `norm`, and the operand's list read at the window's places. -/
theorem normStripsLeadingZeros : Obligations.NormStripsLeadingZeros := by
  unfold Obligations.NormStripsLeadingZeros
  refine ⟨fun p hp => ?_, fun s k => ⟨s.polyRaw k, s.length_polyRaw k, fun i hi => ?_, rfl⟩⟩
  · obtain ⟨hstrip, hhead⟩ := exists_replicate_append_norm hp
    exact ⟨hstrip, norm_ne_nil hp, hhead, norm_norm p⟩
  · exact State.polyRaw_getD (by simpa using hi)

/-- Padding the normal form restores the list. -/
theorem padLeft_norm {p : List Byte} (hp : p ≠ []) {n : Nat} (hn : p.length ≤ n) :
    padLeft n (norm p) = List.replicate (n - p.length) 0#8 ++ p := by
  obtain ⟨⟨k, hk⟩, -⟩ := exists_replicate_append_norm hp
  have hlen : p.length = k + (norm p).length := by simpa using congrArg List.length hk
  have hpad : padLeft n (norm p) = List.replicate (n - (norm p).length) 0#8 ++ norm p := by
    rw [padLeft, List.drop_append_of_le_length (by simp; omega), List.drop_replicate]
  conv_rhs => rw [hk]
  rw [hpad, ← List.append_assoc, List.replicate_append_replicate, ← hk]
  congr 2
  omega

/-! ## Rows (R147, R149) -/

theorem byteLog_of_ne {x : Byte} (h : x ≠ 0#8) : byteLog x = .ok (dlog x) := by
  rw [byteLog_eq, if_neg h]
  rfl

theorem byteLog_zero : byteLog 0#8 = .error .gfLogZero := rfl

/-- `scale` by the log of a nonzero coefficient multiplies by it. -/
theorem scale_dlog {x : Byte} (hx : x ≠ 0#8) {b : List Byte} (hb : ∀ y ∈ b, y ≠ 0#8) :
    scale (dlog x) b = .ok (b.map (gfMul x)) := by
  rw [scale_eq, if_neg (fun h => hb _ h rfl)]
  refine congrArg _ (List.map_congr_left fun y hy => ?_)
  rw [gfMul_comm, gfMul_of_ne (hb y hy) hx]
  rfl

theorem getD_map_gfMul (x : Byte) (b : List Byte) (k : Nat) :
    (b.map (gfMul x)).getD k 0#8 = gfMul x (b.getD k 0#8) := by
  rw [← gfMul_zero_right x, List.getD_map, gfMul_zero_right]

/-! ## The coefficients of a product (R147) -/

theorem foldl_xor (x : Byte) (l : List Byte) : l.foldl (· ^^^ ·) x = x ^^^ l.foldl (· ^^^ ·) 0#8 := by
  induction l generalizing x with
  | nil => simp
  | cons y l ih =>
    rw [List.foldl_cons, ih, List.foldl_cons, ih (0#8 ^^^ y), BitVec.zero_xor, BitVec.xor_assoc]

theorem productCoeff_nil (b : List Byte) (k : Nat) : productCoeff [] b k = 0#8 := by
  unfold productCoeff
  induction List.range (k + 1) with
  | nil => rfl
  | cons i l ih =>
    rw [List.map_cons, List.foldl_cons, foldl_xor, ih]
    simp

theorem productCoeff_cons_zero (x : Byte) (a b : List Byte) :
    productCoeff (x :: a) b 0 = gfMul x (b.getD 0 0#8) := by
  simp [productCoeff]

/-- The first coefficient gives one row, the others the product shifted by one. -/
theorem productCoeff_cons_succ (x : Byte) (a b : List Byte) (k : Nat) :
    productCoeff (x :: a) b (k + 1) = gfMul x (b.getD (k + 1) 0#8) ^^^ productCoeff a b k := by
  rw [productCoeff, List.range_succ_eq_map, List.map_cons, List.foldl_cons, foldl_xor, List.map_map, BitVec.zero_xor]
  congr 3
  funext i
  simp

theorem productCoeff_replicate_zero (n : Nat) (b : List Byte) (k : Nat) :
    productCoeff (List.replicate n 0#8) b k = 0#8 := by
  induction n generalizing k with
  | zero => exact productCoeff_nil b k
  | succ n ih =>
    rw [List.replicate_succ]
    cases k with
    | zero => rw [productCoeff_cons_zero, gfMul_zero_left]
    | succ k => rw [productCoeff_cons_succ, ih, gfMul_zero_left, BitVec.xor_zero]

/-- The convolution of operands without zero coefficients. -/
theorem exists_convolve_eq_ok {a b : List Byte} (ha : ∀ x ∈ a, x ≠ 0#8) (hb : ∀ x ∈ b, x ≠ 0#8) (hb0 : b ≠ []) :
    ∃ r, convolve a b = .ok r ∧ r.length = a.length + b.length - 1 ∧ ∀ k, r.getD k 0#8 = productCoeff a b k := by
  have hpos := List.length_pos_iff.mpr hb0
  induction a with
  | nil => exact ⟨_, rfl, by simp, fun k => by rw [getD_replicate_zero, productCoeff_nil]⟩
  | cons x a ih =>
    obtain ⟨hx, ha⟩ := List.forall_mem_cons.mp ha
    obtain ⟨rest, hrest, hlen, hcoeff⟩ := ih ha
    refine ⟨xorInto (0#8 :: rest) (b.map (gfMul x)), ?_, by simp; omega, fun k => ?_⟩
    · rw [convolve, byteLog_of_ne hx, hrest]
      change (scale (dlog x) b >>= fun row => _) = _
      rw [scale_dlog hx hb]
      rfl
    · rw [getD_xorInto (by simp; omega), getD_map_gfMul]
      cases k with
      | zero => rw [productCoeff_cons_zero]; simp
      | succ k => rw [productCoeff_cons_succ, ← hcoeff, BitVec.xor_comm]; rfl

/-- A zero coefficient of either operand raises GfLogZero. -/
theorem convolve_eq_error {a b : List Byte} (ha : a ≠ []) (h : 0#8 ∈ a ∨ 0#8 ∈ b) :
    convolve a b = .error .gfLogZero := by
  induction a with
  | nil => exact absurd rfl ha
  | cons x a ih =>
    by_cases hx : x = 0#8
    · rw [hx]
      rfl
    · rw [convolve, byteLog_of_ne hx]
      change (scale (dlog x) b >>= fun row => _) = _
      rw [scale_eq]
      split_ifs with hb
      · rfl
      · have ha' : 0#8 ∈ a := by simpa [hb, Ne.symm hx] using h
        rw [ih (List.ne_nil_of_mem ha') (.inl ha')]
        rfl

/-- The product of operands without zero coefficients: its length and its coefficients. -/
theorem exists_pmul_eq_ok {a b : List Byte} (ha : ∀ x ∈ a, x ≠ 0#8) (hb : ∀ x ∈ b, x ≠ 0#8) (ha0 : a ≠ [])
    (hb0 : b ≠ []) :
    ∃ r, pmul a b = .ok r ∧ r.length = a.length + b.length - 1 ∧ ∀ k, r.getD k 0#8 = productCoeff a b k := by
  obtain ⟨r, hr, hlen, hcoeff⟩ := exists_convolve_eq_ok ha hb hb0
  obtain ⟨x, a, rfl⟩ := List.exists_cons_of_ne_nil ha0
  obtain ⟨y, b, rfl⟩ := List.exists_cons_of_ne_nil hb0
  have hlead : r.getD 0 0#8 ≠ 0#8 := by
    rw [hcoeff, productCoeff_cons_zero]
    exact gfMul_ne_zero (ha x (by simp)) (hb y (by simp))
  have hnorm : norm r = r := norm_of_head_ne_zero fun h => hlead (by cases r <;> simp_all)
  exact ⟨r, by rw [pmul, hr]; exact congrArg Except.ok hnorm, hlen, hcoeff⟩

theorem pmul_eq_error {a b : List Byte} (ha : a ≠ []) (h : 0#8 ∈ a ∨ 0#8 ∈ b) : pmul a b = .error .gfLogZero := by
  rw [pmul, convolve_eq_error ha h]
  rfl

/-! ## Long division on lists of fixed length (R149) -/

/-- The quotient coefficient that cancels a leading coefficient `x` by a divisor with leading coefficient `y`. -/
def quotient (y x : Byte) : Byte := if x = 0#8 then 0#8 else gfExp ((dlog x : Int) - (dlog y : Int))

/-- `n` steps of long division by `b`, each of which drops the leading coefficient it cancels. -/
def longDiv (b : List Byte) : Nat → List Byte → List Byte
  | 0, a => a
  | _ + 1, [] => []
  | n + 1, x :: a => longDiv b n (xorInto a (b.tail.map (gfMul (quotient (b.headD 0#8) x))))

theorem gfMul_quotient {x y : Byte} (hy : y ≠ 0#8) : gfMul (quotient y x) y = x := by
  unfold quotient
  split_ifs with hx
  · rw [hx, gfMul_zero_left]
  · rw [gfMul_gfExp _ hy, Int.sub_add_cancel, gfExp_dlog hx]

theorem map_gfMul_quotient_zero (y : Byte) (b : List Byte) :
    b.map (gfMul (quotient y 0#8)) = List.replicate b.length 0#8 := by
  refine List.eq_replicate_iff.mpr ⟨by simp, fun z hz => ?_⟩
  obtain ⟨w, -, rfl⟩ := List.mem_map.mp hz
  rw [quotient, if_pos rfl, gfMul_zero_left]

section
variable {b : List Byte} {m : Nat}

theorem length_longDiv {n : Nat} {a : List Byte} (h : a.length = n + m) : (longDiv b n a).length = m := by
  induction n generalizing a with
  | zero => rw [longDiv, h, Nat.zero_add]
  | succ n ih =>
    cases a with
    | nil => simp at h; omega
    | cons x a => exact ih (by simp at h ⊢; omega)

/-- The remainder is linear in what stands below the quotient's places. -/
theorem longDiv_xorInto_low {n : Nat} {a : List Byte} (h : a.length = n + m) (d : List Byte) :
    longDiv b n (xorInto a (List.replicate n 0#8 ++ d)) = xorInto (longDiv b n a) d := by
  induction n generalizing a with
  | zero => rfl
  | succ n ih =>
    cases a with
    | nil => simp at h; omega
    | cons x a =>
      rw [List.replicate_succ, List.cons_append, xorInto, BitVec.xor_zero, longDiv, xorInto_right_comm, longDiv]
      exact ih (by simp at h ⊢; omega)

/-- The list is the quotient times the divisor plus the remainder. -/
theorem exists_quotient {n : Nat} {a : List Byte} (hb : ∀ x ∈ b, x ≠ 0#8) (hbl : b.length = m + 1)
    (h : a.length = n + m) : ∃ q : List Byte, q.length = n ∧
      ∀ k, a.getD k 0#8 = productCoeff q b k ^^^ (List.replicate n 0#8 ++ longDiv b n a).getD k 0#8 := by
  induction n generalizing a with
  | zero => exact ⟨[], rfl, fun k => by rw [productCoeff_nil, BitVec.zero_xor]; rfl⟩
  | succ n ih =>
    obtain ⟨y, b, rfl⟩ := List.exists_cons_of_length_eq_add_one hbl
    cases a with
    | nil => simp at h; omega
    | cons x a =>
      have ha : a.length = n + m := by simp at h; omega
      have hb' : b.length ≤ a.length := by simp at hbl; omega
      obtain ⟨q, hq, hcoeff⟩ := ih (a := xorInto a (b.map (gfMul (quotient y x)))) (by simpa using ha)
      refine ⟨quotient y x :: q, by simp [hq], fun k => ?_⟩
      cases k with
      | zero =>
        rw [productCoeff_cons_zero, List.replicate_succ]
        simpa using (gfMul_quotient (hb y (by simp))).symm
      | succ k =>
        have hk := hcoeff k
        rw [getD_xorInto (by simpa using hb'), getD_map_gfMul] at hk
        rw [productCoeff_cons_succ, List.replicate_succ, BitVec.xor_assoc]
        simp only [List.cons_append, List.getD_cons_succ, longDiv, List.tail_cons, List.headD_cons]
        rw [← hk, BitVec.xor_comm (gfMul _ _), BitVec.xor_assoc, BitVec.xor_self, BitVec.xor_zero]

/-! ## `pmod` computes it -/

/-- One pass on a dividend that begins with a nonzero coefficient. -/
theorem pmodStep_cons {x y : Byte} {a b : List Byte} (hx : x ≠ 0#8) (hb : ∀ z ∈ y :: b, z ≠ 0#8) :
    pmodStep (x :: a) (y :: b) = .ok (norm (0#8 :: xorInto a (b.map (gfMul (quotient y x))))) := by
  have hy := hb y (by simp)
  have hscale : scale ((dlog x : Int) - (dlog y : Int)) (y :: b) = .ok ((y :: b).map (gfMul (quotient y x))) := by
    rw [scale_eq, if_neg (fun h => hb _ h rfl)]
    refine congrArg _ (List.map_congr_left fun z hz => ?_)
    rw [quotient, if_neg hx, gfMul_gfExp _ (hb z hz), Int.add_comm]
    rfl
  rw [pmodStep, List.headD_cons, List.headD_cons, byteLog_of_ne hx, byteLog_of_ne hy]
  change (scale ((dlog x : Int) - (dlog y : Int)) (y :: b) >>= fun row => _) = _
  rw [hscale, List.map_cons, gfMul_quotient hy, ← BitVec.xor_self (x := x)]
  rfl

theorem pmodLoop_of_lt {fuel : Nat} {a : List Byte} (h : a.length < b.length) : pmodLoop fuel a b = .ok a := by
  cases fuel with
  | zero => rfl
  | succ fuel => exact if_pos h

theorem pmodLoop_succ_of_step {fuel : Nat} {a t : List Byte} (h : b.length ≤ a.length)
    (hstep : pmodStep a b = .ok t) : pmodLoop (fuel + 1) a b = pmodLoop fuel t b := by
  rw [pmodLoop, if_neg (Nat.not_lt.mpr h), hstep]
  rfl

theorem pmodLoop_succ_of_error {fuel : Nat} {a : List Byte} {e : ErrCode} (h : b.length ≤ a.length)
    (hstep : pmodStep a b = .error e) : pmodLoop (fuel + 1) a b = .error e := by
  rw [pmodLoop, if_neg (Nat.not_lt.mpr h), hstep]
  rfl

/-- The loop of `pmod` ends with the remainder of long division in normal form. -/
theorem pmodLoop_norm (hb : ∀ x ∈ b, x ≠ 0#8) (hbl : b.length = m + 1) (hm : 0 < m) {n fuel : Nat} {a : List Byte}
    (h : a.length = n + m) (hfuel : (norm a).length ≤ fuel) :
    pmodLoop fuel (norm a) b = .ok (norm (longDiv b n a)) := by
  induction n generalizing a fuel with
  | zero =>
    have hlen := length_norm_le a
    exact pmodLoop_of_lt (by omega)
  | succ n ih =>
    cases a with
    | nil => simp at h; omega
    | cons x a =>
      have ha : a.length = n + m := by simp at h; omega
      have ha0 : a ≠ [] := List.ne_nil_of_length_pos (by omega)
      obtain ⟨y, b, rfl⟩ := List.exists_cons_of_length_eq_add_one hbl
      have hnorm0 : ∀ t : List Byte, t.length = a.length → norm (0#8 :: t) = norm t := fun t ht => by
        obtain ⟨z, u, rfl⟩ := List.exists_cons_of_ne_nil (List.ne_nil_of_length_pos (l := t) (by omega))
        exact norm_cons_zero z u
      have hnext : (xorInto a (b.map (gfMul (quotient y x)))).length = n + m := by simpa using ha
      rw [longDiv]
      by_cases hx : x = 0#8
      · subst hx
        rw [hnorm0 a rfl] at hfuel ⊢
        rw [List.tail_cons, map_gfMul_quotient_zero, xorInto_replicate_zero]
        exact ih ha hfuel
      · rw [norm_cons_of_ne hx] at hfuel ⊢
        obtain ⟨fuel, rfl⟩ := Nat.exists_eq_add_one.mpr (show 0 < fuel by simp at hfuel; omega)
        have hlen := length_norm_le (xorInto a (b.map (gfMul (quotient y x))))
        rw [pmodLoop_succ_of_step (by simp at hbl ⊢; omega) (pmodStep_cons hx hb), hnorm0 _ (by simp)]
        exact ih hnext (by simp at hfuel; omega)

theorem pmod_norm (hb : ∀ x ∈ b, x ≠ 0#8) (hbl : b.length = m + 1) (hm : 0 < m) {n : Nat} {a : List Byte}
    (h : a.length = n + m) : pmod (norm a) b = .ok (norm (longDiv b n a)) :=
  pmodLoop_norm hb hbl hm h (Nat.le_succ _)

theorem pmod_of_lt {a : List Byte} (h : a.length < b.length) : pmod a b = .ok a := pmodLoop_of_lt h

/-! ## When `pmod` raises GfLogZero -/

theorem pmodStep_of_head_eq_zero {a : List Byte} (h : a.headD 0#8 = 0#8) : pmodStep a b = .error .gfLogZero := by
  rw [pmodStep, h, byteLog_zero]
  rfl

theorem pmodStep_of_mem_zero {a : List Byte} (h : 0#8 ∈ b) : pmodStep a b = .error .gfLogZero := by
  rw [pmodStep, byteLog_eq, byteLog_eq]
  split_ifs
  · rfl
  · rfl
  · rfl
  · change (scale _ b >>= fun row => _) = _
    rw [scale_eq, if_pos h]
    rfl

/-- Division by a constant never ends the loop, so it ends in the log of 0. -/
theorem pmodLoop_singleton {y : Byte} (hy : y ≠ 0#8) {a : List Byte} (ha : a ≠ []) (hnorm : norm a = a) {fuel : Nat}
    (hfuel : a.length < fuel) : pmodLoop fuel a [y] = .error .gfLogZero := by
  induction fuel generalizing a with
  | zero => omega
  | succ fuel ih =>
    obtain ⟨x, t, rfl⟩ := List.exists_cons_of_ne_nil ha
    by_cases hx : x = 0#8
    · exact pmodLoop_succ_of_error (by simp) (pmodStep_of_head_eq_zero hx)
    · rw [pmodLoop_succ_of_step (by simp) (pmodStep_cons hx (by simpa using hy)), List.map_nil, xorInto_nil]
      simp only [List.length_cons] at hfuel
      cases t with
      | nil =>
        obtain ⟨fuel, rfl⟩ := Nat.exists_eq_add_one.mpr (show 0 < fuel by simp at hfuel; omega)
        exact pmodLoop_succ_of_error (by simp) (pmodStep_of_head_eq_zero rfl)
      | cons z t =>
        have hlen := length_norm_le (z :: t)
        rw [norm_cons_zero]
        exact ih (norm_ne_nil (by simp)) (norm_norm _) (by omega)

theorem pmod_eq_error {a : List Byte} (ha : a ≠ []) (hnorm : norm a = a) (hb0 : b ≠ []) (hle : b.length ≤ a.length)
    (h : b.length = 1 ∨ 0#8 ∈ b) : pmod a b = .error .gfLogZero := by
  by_cases h0 : 0#8 ∈ b
  · exact pmodLoop_succ_of_error hle (pmodStep_of_mem_zero h0)
  · obtain ⟨y, rfl⟩ := List.length_eq_one_iff.mp (h.resolve_right h0)
    exact pmodLoop_singleton (fun hy => h0 (by simp [hy])) ha hnorm (Nat.lt_succ_self _)

/-- A divisor of length at least 2 without zero coefficients leaves a shorter remainder. -/
theorem exists_pmod_eq_ok {a : List Byte} (ha : a ≠ []) (hnorm : norm a = a) (hbl : 2 ≤ b.length)
    (hb : ∀ x ∈ b, x ≠ 0#8) :
    ∃ r, pmod a b = .ok r ∧ r.length < b.length ∧ r ≠ [] ∧ norm r = r := by
  obtain ⟨m, hm⟩ := Nat.exists_eq_add_of_lt (show 0 < b.length by omega)
  rw [Nat.zero_add] at hm
  rcases Nat.lt_or_ge a.length b.length with hlt | hge
  · exact ⟨a, pmod_of_lt hlt, hlt, ha, hnorm⟩
  · have hn : a.length = (a.length - m) + m := by omega
    have hlen := length_longDiv (b := b) hn
    have hle := length_norm_le (longDiv b (a.length - m) a)
    refine ⟨_, hnorm ▸ pmod_norm hb hm (by omega) hn, by omega, norm_ne_nil ?_, norm_norm _⟩
    exact List.ne_nil_of_length_pos (by omega)

end

/-- Settles O23: the three ways the loop ends. -/
theorem polynomialRemainder : Obligations.PolynomialRemainder := by
  unfold Obligations.PolynomialRemainder
  exact fun a b ha hb hna _ => ⟨pmod_of_lt, pmod_eq_error ha hna hb, exists_pmod_eq_ok ha hna⟩

/-- Settles O24: the quotient of long division, whose remainder padded to the dividend's length is the result. -/
theorem remainderLeavesAMultiple : Obligations.RemainderLeavesAMultiple := by
  unfold Obligations.RemainderLeavesAMultiple
  intro a b r hna hbl hb hle hr
  obtain ⟨m, hm⟩ := Nat.exists_eq_add_one.mpr (show 0 < b.length by omega)
  have hn : a.length = (a.length - m) + m := by omega
  have hlen := length_longDiv (b := b) hn
  have hpmod := pmod_norm hb hm (by omega) hn
  rw [hna, hr] at hpmod
  injection hpmod with hpmod
  obtain ⟨q, hq, hcoeff⟩ := exists_quotient hb hm hn
  refine ⟨q, by omega, fun k _ => ?_⟩
  rw [hpmod, padLeft_norm (List.ne_nil_of_length_pos (by omega)) (by omega), hlen]
  exact hcoeff k

end Sys2Proof.Machine
end

section
/-! SUPPORT. Generator polynomials (40_gf_poly.md R151): the coefficients of the product of x + α^i for i < e obey two
recurrences, whose difference shows which of them are 0. -/

namespace Sys2Proof.Machine

/-! ## The coefficients of a generator -/

/-- Coefficient k, from the highest on, of the product of x + α^i for i < e, by its last factor. -/
def genCoeff : Nat → Nat → Byte
  | 0, 0 => 1#8
  | 0, _ + 1 => 0#8
  | e + 1, 0 => genCoeff e 0
  | e + 1, k + 1 => genCoeff e (k + 1) ^^^ gfDouble^[e] (genCoeff e k)

@[simp] theorem genCoeff_zero (e : Nat) : genCoeff e 0 = 1#8 := by
  induction e with
  | zero => rfl
  | succ e ih => exact ih

theorem genCoeff_succ_succ (e k : Nat) :
    genCoeff (e + 1) (k + 1) = genCoeff e (k + 1) ^^^ gfDouble^[e] (genCoeff e k) := rfl

theorem genCoeff_of_gt {e k : Nat} (h : e < k) : genCoeff e k = 0#8 := by
  induction e generalizing k with
  | zero =>
    obtain ⟨k, rfl⟩ := Nat.exists_eq_add_one.mpr h
    rfl
  | succ e ih =>
    obtain ⟨k, rfl⟩ := Nat.exists_eq_add_one.mpr (Nat.zero_lt_of_lt h)
    rw [genCoeff_succ_succ, ih (by omega), ih (by omega), iterate_gfDouble_zero, BitVec.xor_zero]

/-- The same coefficients by the first factor: the other factors are those of degree e with x scaled by α. -/
theorem genCoeff_succ_succ' (e k : Nat) : genCoeff (e + 1) (k + 1) =
    gfDouble^[k + 1] (genCoeff e (k + 1)) ^^^ gfDouble^[k] (genCoeff e k) := by
  induction e generalizing k with
  | zero =>
    cases k with
    | zero => rfl
    | succ k =>
      rw [genCoeff_of_gt (by omega), genCoeff_of_gt (by omega), genCoeff_of_gt (by omega), iterate_gfDouble_zero,
        iterate_gfDouble_zero, BitVec.xor_zero]
  | succ e ih =>
    conv_lhs => rw [genCoeff_succ_succ, ih k]
    conv_rhs => rw [genCoeff_succ_succ, iterate_gfDouble_xor, ← Function.iterate_add_apply]
    cases k with
    | zero =>
      rw [Nat.zero_add, genCoeff_zero, genCoeff_zero, Nat.add_comm e 1]
      ac_rfl
    | succ k =>
      conv_lhs => rw [ih k]
      conv_rhs => rw [genCoeff_succ_succ e k]
      simp only [iterate_gfDouble_xor, ← Function.iterate_add_apply]
      rw [show e + 1 + (k + 1) = k + 1 + 1 + e by omega, show e + 1 + k = k + 1 + e by omega]
      ac_rfl

theorem xor_eq_xor_of_eq {a b c d : Byte} (h : a ^^^ b = c ^^^ d) : a ^^^ c = b ^^^ d := by
  have ha : a = (c ^^^ d) ^^^ b := by rw [← h, BitVec.xor_assoc, BitVec.xor_self, BitVec.xor_zero]
  rw [ha, BitVec.xor_comm, ← BitVec.xor_assoc, ← BitVec.xor_assoc, BitVec.xor_self, BitVec.zero_xor, BitVec.xor_comm]

/-- The difference of the two recurrences: (1 + α^(k+1)) times coefficient k + 1 is (α^e + α^k) times coefficient k. -/
theorem genCoeff_ratio (e k : Nat) : genCoeff e (k + 1) ^^^ gfDouble^[k + 1] (genCoeff e (k + 1)) =
    gfDouble^[e] (genCoeff e k) ^^^ gfDouble^[k] (genCoeff e k) :=
  xor_eq_xor_of_eq (genCoeff_succ_succ' e k)

theorem xor_ne_zero {x y : Byte} (h : x ≠ y) : x ^^^ y ≠ 0#8 := fun hc => h (BitVec.xor_eq_zero_iff.mp hc)

/-- Up to degree 254 the powers α^e and α^k differ for k < e, so no coefficient is 0. -/
theorem genCoeff_ne_zero {e k : Nat} (he : e < 255) (hk : k ≤ e) : genCoeff e k ≠ 0#8 := by
  induction k with
  | zero => simp
  | succ k ih =>
    intro h0
    have hratio := genCoeff_ratio e k
    rw [h0, iterate_gfDouble_zero, BitVec.xor_zero] at hratio
    refine xor_ne_zero (fun h => ?_) hratio.symm
    have := iterate_gfDouble_inj he (by omega) (ih (by omega)) h
    omega

/-- At degree 255 α^e is 1, so the coefficients after the first are 0 up to the last. -/
theorem genCoeff_255_eq_zero {e k : Nat} (he : e = 255) (hk : k < 254) : genCoeff e (k + 1) = 0#8 := by
  induction k with
  | zero => exact eq_zero_of_factor (by rw [Function.iterate_zero_apply, iterate_gfDouble_of_eq_255 he]) hk
  | succ k ih =>
    exact eq_zero_of_factor (by rw [ih (by omega), iterate_gfDouble_zero, iterate_gfDouble_zero]) hk
where
  eq_zero_of_factor {k : Nat} (hfactor : gfDouble^[e] (genCoeff e k) = gfDouble^[k] (genCoeff e k)) (hk : k < 254) :
      genCoeff e (k + 1) = 0#8 := by
    have hratio := genCoeff_ratio e k
    rw [hfactor, BitVec.xor_self] at hratio
    by_contra h0
    refine xor_ne_zero (fun h => ?_) hratio
    have := iterate_gfDouble_inj (i := 0) (by decide) (by omega) h0 h
    omega

/-- The constant coefficient is the product of the constants. -/
theorem genCoeff_self (e : Nat) : genCoeff e e = gfDouble^[∑ i ∈ Finset.range e, i] 1#8 := by
  induction e with
  | zero => rfl
  | succ e ih => rw [genCoeff_succ_succ, genCoeff_of_gt (Nat.lt_succ_self e), BitVec.zero_xor, ih,
      ← Function.iterate_add_apply, Finset.sum_range_succ, Nat.add_comm]

theorem genCoeff_255_255 {e : Nat} (he : e = 255) : genCoeff e e = 1#8 := by
  have hsum : e * (e - 1) / 2 = e * 127 := by rw [he]
  rw [genCoeff_self, Finset.sum_range_id, hsum, Function.iterate_mul]
  exact Function.iterate_fixed (iterate_gfDouble_of_eq_255 he) 127

/-! ## `gen` computes them -/

/-- The list of the e + 1 coefficients. -/
def genList (e : Nat) : List Byte := (List.range (e + 1)).map (genCoeff e)

@[simp] theorem length_genList (e : Nat) : (genList e).length = e + 1 := by simp [genList]

theorem getD_genList (e k : Nat) : (genList e).getD k 0#8 = genCoeff e k := by
  rcases Nat.lt_or_ge k (e + 1) with hk | hk
  · rw [List.getD_eq_getElem _ _ (by simpa using hk)]
    simp [genList]
  · rw [List.getD_eq_default _ _ (by simpa using hk), genCoeff_of_gt (by omega)]

theorem genList_ne_nil (e : Nat) : genList e ≠ [] := List.ne_nil_of_length_pos (by simp)

theorem genList_ne_zero {e : Nat} (he : e < 255) : ∀ x ∈ genList e, x ≠ 0#8 := by
  intro x hx
  obtain ⟨k, hk, rfl⟩ := List.mem_map.mp hx
  exact genCoeff_ne_zero he (by simpa using Nat.lt_succ_iff.mp (List.mem_range.mp hk))

theorem head?_genList (e : Nat) : (genList e).head? = some 1#8 := by
  rw [genList, List.range_succ_eq_map]
  simp

/-- One more factor x + α^e. -/
theorem productCoeff_factor (p : List Byte) (e : Nat) (k : Nat) : productCoeff p [1#8, gfExp (e : Int)] (k + 1) =
    p.getD (k + 1) 0#8 ^^^ gfDouble^[e] (p.getD k 0#8) := by
  induction p generalizing k with
  | nil => simp [productCoeff_nil, iterate_gfDouble_zero]
  | cons x p ih =>
    rw [productCoeff_cons_succ]
    cases k with
    | zero =>
      cases p with
      | nil => simp [productCoeff_nil, gfMul_comm x, gfMul_gfExp_eq_iterate]
      | cons y p => simp [productCoeff_cons_zero, gfMul_comm y, gfMul_comm x, gfMul_gfExp_eq_iterate, BitVec.xor_comm]
    | succ k => simp [ih k]

theorem gen_eq {e : Nat} (he : e ≤ 255) : gen e = .ok (genList e) := by
  induction e with
  | zero => rfl
  | succ e ih =>
    obtain ⟨r, hr, hlen, hcoeff⟩ := exists_pmul_eq_ok (a := genList e) (b := [1#8, gfExp (e : Int)])
      (genList_ne_zero (by omega)) (by simp [gfExp_ne_zero]) (genList_ne_nil e) (by simp)
    rw [gen, ih (by omega)]
    refine hr.trans (congrArg _ (ext_getD (by simp [hlen]) fun k _ => ?_))
    rw [hcoeff, getD_genList]
    cases k with
    | zero =>
      obtain ⟨x, t, hxt⟩ := List.exists_cons_of_ne_nil (genList_ne_nil e)
      have hx : x = 1#8 := by simpa [hxt] using head?_genList e
      rw [hxt, hx, productCoeff_cons_zero]
      simp
    | succ k => rw [productCoeff_factor, getD_genList, getD_genList, genCoeff_succ_succ]

theorem genList_255 {e n : Nat} (he : e = 255) (hn : e = n + 1) :
    genList e = 1#8 :: (List.replicate n 0#8 ++ [1#8]) := by
  refine ext_getD (by simp [hn]) fun k hk => ?_
  rw [length_genList] at hk
  rw [getD_genList]
  rcases Nat.eq_zero_or_pos k with rfl | h0
  · exact genCoeff_zero e
  · obtain ⟨k, rfl⟩ := Nat.exists_eq_add_one.mpr h0
    rw [List.getD_cons_succ]
    rcases Nat.lt_or_ge k n with hlt | hge
    · rw [genCoeff_255_eq_zero he (by omega), List.getD_append _ _ _ _ (by simpa using hlt), getD_replicate_zero]
    · obtain rfl : k = n := by omega
      rw [← hn, genCoeff_255_255 he]
      simp [List.getD]

/-- Settles O26: `gen` has the coefficients of the recurrences. -/
theorem generatorPolynomials : Obligations.GeneratorPolynomials := by
  unfold Obligations.GeneratorPolynomials
  refine ⟨fun e he => ⟨_, gen_eq (by omega), length_genList e, head?_genList e, genList_ne_zero (by omega)⟩, ?_, rfl,
    by decide +kernel, by decide +kernel⟩
  exact (gen_eq le_rfl).trans (congrArg Except.ok (genList_255 rfl rfl))

/-! ## Check codewords (R153) -/

theorem length_genList_lt {e : Nat} (he : 0 < e) : 2 ≤ (genList e).length := by rw [length_genList]; omega

/-- What `rs_ecc` is once the generator is known. -/
theorem rsEcc_eq {d : List Byte} {e : Nat} (he : e ≤ 255) {r : List Byte}
    (h : pmod (norm (d ++ List.replicate e 0#8)) (genList e) = .ok r) : rsEcc d e = .ok (padLeft e r) := by
  rw [rsEcc, gen_eq he]
  change (pmod (norm (d ++ List.replicate e 0#8)) (genList e) >>= fun r => _) = _
  rw [h]
  rfl

/-- The check codewords are the remainder of long division of the data with `e` zeros after it. -/
theorem rsEcc_eq_longDiv (d : List Byte) {e : Nat} (h1 : 1 ≤ e) (h254 : e ≤ 254) :
    rsEcc d e = .ok (longDiv (genList e) d.length (d ++ List.replicate e 0#8)) := by
  have hn : (d ++ List.replicate e (0#8 : Byte)).length = d.length + e := by simp
  have hlen := length_longDiv (b := genList e) hn
  rw [rsEcc_eq (by omega) (pmod_norm (genList_ne_zero (by omega)) (length_genList e) h1 hn),
    padLeft_norm (List.ne_nil_of_length_pos (by omega)) (by omega), hlen, Nat.sub_self]
  rfl

theorem length_rsEcc {d r : List Byte} {e : Nat} (h : rsEcc d e = .ok r) : r.length = e := by
  unfold rsEcc at h
  cases hg : gen e with
  | error x => rw [hg] at h; cases h
  | ok g =>
    cases hp : pmod (norm (d ++ List.replicate e 0#8)) g with
    | error x =>
      rw [hg] at h
      change (pmod (norm (d ++ List.replicate e 0#8)) g >>= fun r => _) = _ at h
      rw [hp] at h
      cases h
    | ok q =>
      rw [hg] at h
      change (pmod (norm (d ++ List.replicate e 0#8)) g >>= fun r => _) = _ at h
      rw [hp] at h
      injection h with h
      rw [← h, length_padLeft]

/-- Settles O29: long division is linear below the data, so the data followed by its remainder leaves 0. -/
theorem rsBlockIsAMultipleOfTheGenerator : Obligations.RsBlockIsAMultipleOfTheGenerator := by
  unfold Obligations.RsBlockIsAMultipleOfTheGenerator
  intro d e h1 h254
  have hn : (d ++ List.replicate e (0#8 : Byte)).length = d.length + e := by simp
  have hlen := length_longDiv (b := genList e) hn
  have hadd : ∀ ec : List Byte, ec.length = e →
      d ++ ec = xorInto (d ++ List.replicate e 0#8) (List.replicate d.length 0#8 ++ ec) := fun ec hec => by
    refine ext_getD (by simp [hec]) fun k hk => ?_
    rw [getD_xorInto (by simp [hec])]
    rcases Nat.lt_or_ge k d.length with h | h
    · rw [List.getD_append _ _ _ _ h, List.getD_append _ _ _ _ h, List.getD_append _ _ _ _ (by simpa using h),
        getD_replicate_zero, BitVec.xor_zero]
    · rw [List.getD_append_right _ _ _ _ h, List.getD_append_right _ _ _ _ h,
        List.getD_append_right _ _ _ _ (by simpa using h), getD_replicate_zero, BitVec.zero_xor, List.length_replicate]
  refine ⟨_, _, gen_eq (by omega), rsEcc_eq_longDiv d h1 h254, hlen, ?_⟩
  rw [pmod_norm (genList_ne_zero (by omega)) (length_genList e) h1 (n := d.length) (by simp [hlen]), hadd _ hlen,
    longDiv_xorInto_low hn, xorInto_self, hlen, norm_replicate_zero h1]

end Sys2Proof.Machine
end

section
/-! SUPPORT. The polynomial commands (40_gf_poly.md R148, R150, R152, R154): each is its result written to PR[RD] or its
error with only STATUS changed. -/

namespace Sys2Proof.Machine

section
variable {s : State} (d a b : PReg)

theorem exec_polyMul_of_error {e : ErrCode} (h : polyMulResult a b s = .error e) :
    exec (.polyMul d a b) s = .next (s.complete e) := by
  change finishPoly d (polyMulResult a b s) s = _
  rw [h]
  rfl

theorem exec_polyMod_of_error {e : ErrCode} (h : polyModResult a b s = .error e) :
    exec (.polyMod d a b) s = .next (s.complete e) := by
  change finishPoly d (polyModResult a b s) s = _
  rw [h]
  rfl

theorem exec_polyGen_of_error {e : ErrCode} (h : polyGenResult s = .error e) :
    exec (.polyGen d) s = .next (s.complete e) := by
  change finishPoly d (polyGenResult s) s = _
  rw [h]
  rfl

theorem exec_rsEcc_of_error {e : ErrCode} (h : rsEccResult a s = .error e) :
    exec (.rsEcc d a) s = .next (s.complete e) := by
  change finishPoly d (rsEccResult a s) s = _
  rw [h]
  rfl

/-- A polynomial result stored: PLEN[RD] and the windows, in which the coefficients stand from PR[RD].c[0] on. -/
theorem exists_finishPoly_ok (hm : s.MemoryCanonical) {p : List Byte} {n : Nat} (hn : p.length = n) (hp : n ≤ 256) :
    ∃ m : Memory, finishPoly d (.ok p) s = .next
        { s.setPlen d (BitVec.ofNat 9 n) with mem := m, seq := .idle, done := true, err := .none } ∧
      (∀ k, k < n → m.read (prAddr d k) = p.getD k 0#8) ∧
      (∀ x, (∀ k, k < n → x ≠ prAddr d k) → m.read x = s.mem.read x) := by
  subst hn
  refine ⟨(s.writePoly d p).mem, ?_, writePoly_read hm d hp⟩
  rw [State.writePoly_mem]
  cases d <;> rfl

theorem State.plenLegal_eq_true_iff (k : PReg) :
    s.plenLegal k = true ↔ 1 ≤ (s.plen k).toNat ∧ (s.plen k).toNat ≤ 256 := by
  simp [State.plenLegal]

theorem State.polyOperand_ne_nil {k : PReg} (h : 1 ≤ (s.plen k).toNat) : s.polyOperand k ≠ [] :=
  norm_ne_nil (List.ne_nil_of_length_pos (by rwa [s.length_polyRaw k]))

theorem State.length_polyOperand_le (k : PReg) : (s.polyOperand k).length ≤ (s.plen k).toNat :=
  (length_norm_le _).trans_eq (s.length_polyRaw k)

theorem norm_polyOperand (k : PReg) : norm (s.polyOperand k) = s.polyOperand k := norm_norm _

/-! ## The results (R148, R150, R152, R154) -/

theorem polyMulResult_of_plen
    (h : ¬ (1 ≤ (s.plen a).toNat ∧ (s.plen a).toNat ≤ 256) ∨ ¬ (1 ≤ (s.plen b).toNat ∧ (s.plen b).toNat ≤ 256)) :
    polyMulResult a b s = .error .badArgument := by
  rw [← State.plenLegal_eq_true_iff, ← State.plenLegal_eq_true_iff] at h
  exact if_pos (by simpa using h)

theorem polyModResult_of_plen
    (h : ¬ (1 ≤ (s.plen a).toNat ∧ (s.plen a).toNat ≤ 256) ∨ ¬ (1 ≤ (s.plen b).toNat ∧ (s.plen b).toNat ≤ 256)) :
    polyModResult a b s = .error .badArgument := by
  rw [← State.plenLegal_eq_true_iff, ← State.plenLegal_eq_true_iff] at h
  exact if_pos (by simpa using h)

section
variable {a b} (ha1 : 1 ≤ (s.plen a).toNat) (ha : (s.plen a).toNat ≤ 256) (hb1 : 1 ≤ (s.plen b).toNat)
  (hb : (s.plen b).toNat ≤ 256)
include ha1 ha hb1 hb

theorem not_plenLegal_or : ¬ (!s.plenLegal a || !s.plenLegal b) = true := by
  simp [(State.plenLegal_eq_true_iff a).mpr ⟨ha1, ha⟩, (State.plenLegal_eq_true_iff b).mpr ⟨hb1, hb⟩]

theorem polyMulResult_of_long (h : 256 < (s.polyOperand a).length + (s.polyOperand b).length - 1) :
    polyMulResult a b s = .error .resourceLimit := by
  rw [polyMulResult, if_neg (not_plenLegal_or ha1 ha hb1 hb)]
  exact if_pos h

theorem polyMulResult_of_le (h : (s.polyOperand a).length + (s.polyOperand b).length - 1 ≤ 256) :
    polyMulResult a b s = pmul (s.polyOperand a) (s.polyOperand b) := by
  rw [polyMulResult, if_neg (not_plenLegal_or ha1 ha hb1 hb)]
  exact if_neg (Nat.not_lt.mpr h)

theorem polyModResult_of_legal : polyModResult a b s = pmod (s.polyOperand a) (s.polyOperand b) := by
  rw [polyModResult, if_neg (not_plenLegal_or ha1 ha hb1 hb)]

end

theorem polyGenResult_of_gt (h : 255 < s.arg0.toNat) : polyGenResult s = .error .resourceLimit := if_pos h

theorem polyGenResult_of_le (h : s.arg0.toNat ≤ 255) : polyGenResult s = .ok (genList s.arg0.toNat) :=
  (if_neg (Nat.not_lt.mpr h)).trans (gen_eq h)

theorem rsEccResult_of_bad (h : ¬ (1 ≤ (s.plen a).toNat ∧ (s.plen a).toNat ≤ 256) ∨ s.arg0 = 0#32) :
    rsEccResult a s = .error .badArgument := by
  rw [← State.plenLegal_eq_true_iff, ← BitVec.toNat_inj] at h
  exact if_pos (by simpa using h)

section
variable {a} (ha1 : 1 ≤ (s.plen a).toNat) (ha : (s.plen a).toNat ≤ 256)
include ha1 ha

theorem not_plenLegal_or_arg0 (he : 1 ≤ s.arg0.toNat) : ¬ (!s.plenLegal a || argU s.arg0 == 0) = true := by
  have hne : s.arg0.toNat ≠ 0 := by omega
  simpa [(State.plenLegal_eq_true_iff a).mpr ⟨ha1, ha⟩] using hne

theorem rsEccResult_of_gt (he : 255 < s.arg0.toNat) : rsEccResult a s = .error .resourceLimit := by
  rw [rsEccResult, if_neg (not_plenLegal_or_arg0 ha1 ha (by omega))]
  exact if_pos he

theorem rsEccResult_of_le (he : 1 ≤ s.arg0.toNat) (h : s.arg0.toNat ≤ 255) :
    rsEccResult a s = rsEcc (s.polyRaw a) s.arg0.toNat := by
  rw [rsEccResult, if_neg (not_plenLegal_or_arg0 ha1 ha he)]
  exact if_neg (Nat.not_lt.mpr h)

end

end

/-! ## The Reed-Solomon block (R153, R155) -/

theorem rsEcc_of_all_zero {d : List Byte} {e : Nat} (h1 : 1 ≤ e) (h255 : e ≤ 255) (hd : ∀ x ∈ d, x = 0#8) :
    rsEcc d e = .ok (List.replicate e 0#8) := by
  have hzero : d ++ List.replicate e 0#8 = List.replicate (d.length + e) 0#8 :=
    List.eq_replicate_iff.mpr ⟨by simp, fun x hx => by
      rcases List.mem_append.mp hx with hx | hx
      · exact hd x hx
      · exact List.eq_of_mem_replicate hx⟩
  have hnorm : norm (d ++ List.replicate e 0#8) = [0#8] := by rw [hzero, norm_replicate_zero (by omega)]
  have hpad : padLeft e [0#8] = List.replicate e 0#8 := by
    rw [padLeft, show [0#8] = List.replicate 1 (0#8 : Byte) from rfl, List.replicate_append_replicate]
    simp
  rw [rsEcc_eq h255 (r := [0#8]) (by rw [hnorm]; exact pmod_of_lt (length_genList_lt h1)), hpad]

/-- Only the generator of degree 255 has zero coefficients, and only a nonzero block is divided by it. -/
theorem rsEcc_255_of_nonzero {d : List Byte} {e : Nat} (he : e = 255) (hd : ∃ x ∈ d, x ≠ 0#8) :
    rsEcc d e = .error .gfLogZero := by
  have hlong := length_lt_norm_append (t := List.replicate e 0#8) hd
  have hpos : 0 < e - 1 := by omega
  have hpmod : pmod (norm (d ++ List.replicate e 0#8)) (genList e) = .error .gfLogZero := by
    refine pmod_eq_error (norm_ne_nil (by simp; omega)) (norm_norm _) (genList_ne_nil _) ?_ (.inr ?_)
    · rw [List.length_replicate] at hlong
      rw [length_genList]
      exact hlong
    · rw [genList_255 he (n := e - 1) (by omega)]
      simp [hpos.ne']
  rw [rsEcc, gen_eq he.le]
  change (pmod (norm (d ++ List.replicate e 0#8)) (genList e) >>= fun r => _) = _
  rw [hpmod]
  rfl

/-! ## The commands -/

/-- Settles O21: the product of operands without zero coefficients, stored. -/
theorem polyMulConvolves : Obligations.PolyMulConvolves := by
  unfold Obligations.PolyMulConvolves
  intro s d a b hm ha1 ha hb1 hb hna hnb hlong
  obtain ⟨r, hr, hlen, hcoeff⟩ := exists_pmul_eq_ok hna hnb (State.polyOperand_ne_nil ha1) (State.polyOperand_ne_nil hb1)
  obtain ⟨m, hexec, hread, hframe⟩ := exists_finishPoly_ok d hm hlen hlong
  refine ⟨m, ?_, fun k hk => (hread k hk).trans (hcoeff k), hframe⟩
  rw [← hexec, ← hr, ← polyMulResult_of_le ha1 ha hb1 hb hlong]
  rfl

/-- Settles O22: the checks of R148 in their order. -/
theorem polyMulRaisesInOrder : Obligations.PolyMulRaisesInOrder := by
  unfold Obligations.PolyMulRaisesInOrder
  refine fun s d a b => ⟨fun h => exec_polyMul_of_error d a b (polyMulResult_of_plen a b h), fun ha1 ha hb1 hb =>
    ⟨fun h => exec_polyMul_of_error d a b (polyMulResult_of_long ha1 ha hb1 hb h), fun hle h0 => ?_⟩⟩
  refine exec_polyMul_of_error d a b ?_
  rw [polyMulResult_of_le ha1 ha hb1 hb hle, pmul_eq_error (State.polyOperand_ne_nil ha1) h0]

/-- What POLY_MOD's division is when it raises no error (R149). -/
theorem exists_pmod_polyOperand {s : State} {a b : PReg} (ha1 : 1 ≤ (s.plen a).toNat)
    (h : (s.polyOperand a).length < (s.polyOperand b).length ∨
      (2 ≤ (s.polyOperand b).length ∧ ∀ x ∈ s.polyOperand b, x ≠ 0#8)) :
    ∃ r, pmod (s.polyOperand a) (s.polyOperand b) = .ok r ∧
      ((s.polyOperand a).length < (s.polyOperand b).length → r = s.polyOperand a) ∧
      r.length < (s.polyOperand b).length := by
  by_cases hlt : (s.polyOperand a).length < (s.polyOperand b).length
  · exact ⟨_, pmod_of_lt hlt, fun _ => rfl, hlt⟩
  · obtain ⟨hbl, hnz⟩ := h.resolve_left hlt
    obtain ⟨r, hr, hlen, -, -⟩ := exists_pmod_eq_ok (State.polyOperand_ne_nil ha1) (norm_polyOperand a) hbl hnz
    exact ⟨r, hr, fun hc => absurd hc hlt, hlen⟩

/-- Settles O25: the checks of R150 in their order, and the remainder stored. -/
theorem polyModCommand : Obligations.PolyModCommand := by
  unfold Obligations.PolyModCommand
  refine fun s d a b hm => ⟨fun h => exec_polyMod_of_error d a b (polyModResult_of_plen a b h), fun ha1 ha hb1 hb =>
    ⟨fun hle h0 => ?_, fun h => ?_⟩⟩
  · refine exec_polyMod_of_error d a b ?_
    rw [polyModResult_of_legal ha1 ha hb1 hb]
    exact pmod_eq_error (State.polyOperand_ne_nil ha1) (norm_polyOperand a) (State.polyOperand_ne_nil hb1) hle h0
  · obtain ⟨r, hr, hsame, hlen⟩ := exists_pmod_polyOperand ha1 h
    have hle := State.length_polyOperand_le (s := s) b
    obtain ⟨m, hexec, hread, hframe⟩ := exists_finishPoly_ok d hm (p := r) rfl (by omega)
    refine ⟨r, m, hr, hsame, hlen, ?_, hread, hframe⟩
    rw [← hexec, ← hr, ← polyModResult_of_legal ha1 ha hb1 hb]
    rfl

/-- Settles O27: the generator stored. -/
theorem polyGenCommand : Obligations.PolyGenCommand := by
  unfold Obligations.PolyGenCommand
  refine fun s d hm => ⟨fun h => exec_polyGen_of_error d (polyGenResult_of_gt h), fun h => ?_⟩
  obtain ⟨m, hexec, hread, hframe⟩ := exists_finishPoly_ok d hm (length_genList s.arg0.toNat) (by omega)
  refine ⟨_, m, gen_eq h, length_genList _, ?_, fun k hk => hread k (by omega), fun x hx => hframe x fun k hk =>
    hx k (by omega)⟩
  rw [← hexec, ← polyGenResult_of_le h]
  rfl

/-- Settles O28: the checks of R154 in their order, and the check codewords stored. -/
theorem rsEccCommand : Obligations.RsEccCommand := by
  unfold Obligations.RsEccCommand
  refine fun s d a hm => ⟨fun h => exec_rsEcc_of_error d a (rsEccResult_of_bad a h), fun ha1 ha =>
    ⟨fun h => exec_rsEcc_of_error d a (rsEccResult_of_gt ha1 ha h), fun h hd => ?_, fun h1 h => ?_⟩⟩
  · refine exec_rsEcc_of_error d a ?_
    rw [rsEccResult_of_le ha1 ha (by omega) (by omega), rsEcc_255_of_nonzero h hd]
  · have hok : ∃ r, rsEcc (s.polyRaw a) s.arg0.toNat = .ok r := by
      rcases h with h | ⟨h, hz⟩
      · exact ⟨_, rsEcc_eq_longDiv _ h1 h⟩
      · exact ⟨_, rsEcc_of_all_zero h1 (by omega) hz⟩
    obtain ⟨r, hr⟩ := hok
    have hlen := length_rsEcc hr
    obtain ⟨m, hexec, hread, hframe⟩ := exists_finishPoly_ok d hm hlen (by omega)
    refine ⟨r, m, hr, hlen, fun hz => ?_, ?_, hread, hframe⟩
    · rw [rsEcc_of_all_zero h1 (by omega) hz] at hr
      injection hr with hr
      exact hr.symm
    · rw [← hexec, ← hr, ← rsEccResult_of_le ha1 ha h1 (by omega)]
      rfl

end Sys2Proof.Machine
end

section
/-! SUPPORT. The byte view of the bit buffer (10_state.md R50): a list of bits as a number. -/

namespace Sys2Proof.Machine

theorem natOfBits_concat (l : List Bool) (b : Bool) : natOfBits (l ++ [b]) = Nat.bit b (natOfBits l) := by
  rw [natOfBits, List.foldl_append, ← natOfBits, List.foldl_cons, List.foldl_nil]
  cases b <;> simp [Nat.bit]

/-- The bits of a number read from a list stand most significant first. -/
theorem testBit_natOfBits {l : List Bool} {k : Nat} (hk : k < l.length) :
    (natOfBits l).testBit (l.length - 1 - k) = l[k] := by
  induction l using List.reverseRecOn with
  | nil => simp at hk
  | append_singleton l b ih =>
    rw [natOfBits_concat]
    simp only [List.length_append, List.length_singleton] at hk ⊢
    rcases Nat.lt_or_ge k l.length with h | h
    · rw [show l.length + 1 - 1 - k = (l.length - 1 - k) + 1 by omega, Nat.testBit_bit_succ, ih h,
        List.getElem_append_left h]
    · obtain rfl : k = l.length := by omega
      rw [show l.length + 1 - 1 - l.length = 0 by omega, Nat.testBit_bit_zero]
      simp

theorem testBit_natOfBits_of_length_eq {l : List Bool} (hl : l.length = 8) {k : Nat} (hk : k < 8) :
    (natOfBits l).testBit (7 - k) = l.getD k false := by
  have hbit := testBit_natOfBits (l := l) (k := k) (by omega)
  rwa [show l.length - 1 - k = 7 - k by omega, ← List.getD_eq_getElem _ false] at hbit

theorem getLsbD_bbByte (bits : List Bool) (i : Nat) {k : Nat} (hk : k < 8) :
    (bbByte bits i).getLsbD (7 - k) = bits.getD (8 * i + k) false := by
  have hlen : (((bits.drop (8 * i)).take 8 ++ List.replicate 8 false).take 8).length = 8 := by simp
  rw [bbByte, BitVec.getLsbD_ofNat, testBit_natOfBits_of_length_eq hlen hk, List.getD, List.getElem?_take_of_lt hk,
    decide_eq_true (by omega : 7 - k < 8), Bool.true_and, ← List.getD]
  rcases Nat.lt_or_ge (8 * i + k) bits.length with h | h
  · rw [List.getD_append _ _ _ _ (by simp; omega), List.getD, List.getElem?_take_of_lt hk, List.getElem?_drop, List.getD]
  · rw [List.getD_append_right _ _ _ _ (by simp; omega), List.getD_eq_default _ _ h, List.getD, List.getElem?_replicate]
    split_ifs <;> rfl

theorem bbByte_of_le {bits : List Bool} {i : Nat} (h : (bits.length + 7) / 8 ≤ i) : bbByte bits i = 0#8 := by
  rw [bbByte, List.drop_of_length_le (by omega)]
  rfl

/-- Settles O32: the byte as the number of its eight bits. -/
theorem bufferByteView : Obligations.BufferByteView := by
  unfold Obligations.BufferByteView
  exact ⟨fun bits i k hk => getLsbD_bbByte bits i hk, fun bits i h => bbByte_of_le h,
    fun s i hs hi => State.hostRead_bb_of_idle hs hi⟩

end Sys2Proof.Machine
end

section
/-! SUPPORT. Segments (42_segments.md R213 to R228): the values of the four encoders, their widths, and SEG_WRITE. -/

namespace Sys2Proof.Machine

/-! ## Bit lengths (R216, R219) -/

theorem length_flatMap_bitsMsb (items : List (Nat × Nat)) :
    (items.flatMap (fun p => bitsMsb p.1 p.2)).length = (items.map Prod.snd).sum := by
  simp [List.length_flatMap]

theorem sum_widths_itemsNumeric (c : List Nat) : ((itemsNumeric c).map Prod.snd).sum =
    10 * (c.length / 3) + (if c.length % 3 = 0 then 0 else if c.length % 3 = 1 then 4 else 7) := by
  induction c using itemsNumeric.induct with
  | case1 => rfl
  | case2 a => simp [itemsNumeric]
  | case3 a b => simp [itemsNumeric]
  | case4 a b c t ih =>
    rw [itemsNumeric, List.map_cons, List.sum_cons, ih]
    simp only [List.length_cons, show t.length + 1 + 1 + 1 = t.length + 3 from rfl, Nat.add_mod_right,
      Nat.add_div_right _ (show 0 < 3 by decide)]
    omega

theorem sum_widths_itemsAlnum (c : List Nat) :
    ((itemsAlnum c).map Prod.snd).sum = 11 * (c.length / 2) + 6 * (c.length % 2) := by
  induction c using itemsAlnum.induct with
  | case1 => rfl
  | case2 a => simp [itemsAlnum]
  | case3 a b t ih =>
    rw [itemsAlnum, List.map_cons, List.sum_cons, ih]
    simp only [List.length_cons]
    omega

theorem sum_map_const {α : Type} (w : Nat) (l : List α) : (l.map (fun _ => w)).sum = w * l.length := by
  rw [List.map_const', List.sum_replicate, smul_eq_mul, Nat.mul_comm]

/-- The payload of a segment has the bits its mode's formula counts. -/
theorem Segment.sum_widths_items (g : Segment) : (g.items.map Prod.snd).sum = g.payloadBits := by
  obtain ⟨mode, chars⟩ := g
  cases mode with
  | numeric => simpa [Segment.items, Segment.payloadBits] using sum_widths_itemsNumeric (chars.map (fun c => c - 0x30))
  | alphanumeric => exact sum_widths_itemsAlnum chars
  | byte =>
    rw [Segment.items, itemsByte, List.map_map]
    change (((bom ++ chars.flatMap utf8).map (fun _ => 8)).sum) = _
    rw [sum_map_const, List.length_append, List.length_flatMap]
    rfl
  | kanji =>
    rw [Segment.items, itemsKanji, List.map_map]
    exact sum_map_const 13 chars

theorem Segment.length_bits (g : Segment) (v : Nat) : (g.bits v).length = g.bitLength v := by
  rw [Segment.bits, List.length_append, List.length_append, length_bitsMsb, length_bitsMsb, length_flatMap_bitsMsb,
    g.sum_widths_items]
  rfl

theorem getD_numeric_tail (n : Nat) :
    (if n % 3 = 0 then 0 else if n % 3 = 1 then 4 else 7) = [0, 4, 7].getD (n % 3) 0 := by
  have h : n % 3 < 3 := Nat.mod_lt _ (by decide)
  interval_cases n % 3 <;> rfl

/-- Settles O33: the bits as fields, and their number by the widths of the encoder's values. -/
theorem segmentBitsHaveTheCountedLength : Obligations.SegmentBitsHaveTheCountedLength := by
  unfold Obligations.SegmentBitsHaveTheCountedLength
  refine fun g v => ⟨g.length_bits v, ?_, ?_, ?_, ?_⟩
  · simp only [← bitsMsb_eq_fieldBits]
    obtain ⟨mode, chars⟩ := g
    cases mode <;> rfl
  all_goals
    obtain ⟨mode, chars⟩ := g
    cases mode
  iterate 8 rfl
  · simp only [← getD_numeric_tail]
    rfl
  all_goals rfl

/-! ## Numeric and Alphanumeric values (R221, R222) -/

theorem length_itemsNumeric (c : List Nat) : (itemsNumeric c).length = (c.length + 2) / 3 := by
  induction c using itemsNumeric.induct with
  | case1 => rfl
  | case2 a => simp [itemsNumeric]
  | case3 a b => simp [itemsNumeric]
  | case4 a b c t ih =>
    rw [itemsNumeric, List.length_cons, ih]
    simp only [List.length_cons]
    omega

/-- Group k is the number its digits spell, in the width of their count. -/
theorem getElem?_itemsNumeric (c : List Nat) {k : Nat} (hk : 3 * k < c.length) : (itemsNumeric c)[k]? =
    some (((c.drop (3 * k)).take 3).foldl (fun n x => 10 * n + x) 0,
      [0, 4, 7, 10].getD ((c.drop (3 * k)).take 3).length 0) := by
  induction c using itemsNumeric.induct generalizing k with
  | case1 => simp at hk
  | case2 a =>
    obtain rfl : k = 0 := by simp at hk; omega
    simp [itemsNumeric]
  | case3 a b =>
    obtain rfl : k = 0 := by simp at hk; omega
    simp [itemsNumeric]
  | case4 a b c t ih =>
    cases k with
    | zero => simp [itemsNumeric]; omega
    | succ k => exact ih (k := k) (by simp at hk; omega)

theorem itemsNumeric_lt (c : List Nat) (h : ∀ x ∈ c, x ≤ 9) : ∀ p ∈ itemsNumeric c, p.1 < 2 ^ p.2 := by
  induction c using itemsNumeric.induct with
  | case1 => simp [itemsNumeric]
  | case2 a => simp [itemsNumeric] at h ⊢; omega
  | case3 a b => simp [itemsNumeric] at h ⊢; omega
  | case4 a b c t ih =>
    simp only [List.forall_mem_cons] at h
    obtain ⟨ha, hb, hc, ht⟩ := h
    exact List.forall_mem_cons.mpr ⟨by norm_num; omega, ih ht⟩

theorem length_itemsAlnum (c : List Nat) : (itemsAlnum c).length = (c.length + 1) / 2 := by
  induction c using itemsAlnum.induct with
  | case1 => rfl
  | case2 a => simp [itemsAlnum]
  | case3 a b t ih =>
    rw [itemsAlnum, List.length_cons, ih]
    simp only [List.length_cons]
    omega

/-- Pair k holds the codes of its two characters, a trailing single its own. -/
theorem getElem?_itemsAlnum (c : List Nat) (k : Nat) :
    (2 * k + 1 < c.length →
      (itemsAlnum c)[k]? = some (acode (c.getD (2 * k) 0) * 45 + acode (c.getD (2 * k + 1) 0), 11)) ∧
    (2 * k + 1 = c.length → (itemsAlnum c)[k]? = some (acode (c.getD (2 * k) 0), 6)) := by
  induction c using itemsAlnum.induct generalizing k with
  | case1 => simp
  | case2 a => cases k <;> simp [itemsAlnum]
  | case3 a b t ih =>
    cases k with
    | zero => simp [itemsAlnum]
    | succ k =>
      obtain ⟨hpair, hlast⟩ := ih k
      exact ⟨fun h => hpair (by simp at h; omega), fun h => hlast (by simp at h; omega)⟩

theorem acode_spec : ∀ c ∈ alnumSet, acode c < 45 ∧ acode c = alnumCode c := by decide

theorem itemsAlnum_lt (c : List Nat) (h : ∀ x ∈ c, x ∈ alnumSet) : ∀ p ∈ itemsAlnum c, p.1 < 2 ^ p.2 := by
  induction c using itemsAlnum.induct with
  | case1 => simp [itemsAlnum]
  | case2 a =>
    have ha := (acode_spec a (h a (by simp))).1
    simp [itemsAlnum]
    omega
  | case3 a b t ih =>
    simp only [List.forall_mem_cons] at h
    obtain ⟨ha, hb, ht⟩ := h
    have ha := (acode_spec a ha).1
    have hb := (acode_spec b hb).1
    exact List.forall_mem_cons.mpr ⟨by norm_num; omega, ih ht⟩

/-! ## UTF-8 (R225) -/

theorem or_eq_add {i x : Nat} (a : Nat) (h : x < 2 ^ i) : 2 ^ i * a ||| x = 2 ^ i * a + x :=
  (Nat.two_pow_add_eq_or_of_lt h a).symm

theorem utf8Tail_eq (c k : Nat) : utf8Tail c k = 0x80 + c / 2 ^ (6 * k) % 64 := by
  have hand : (c >>> (6 * k)) &&& 0x3F = c / 2 ^ (6 * k) % 64 := by
    rw [Nat.shiftRight_eq_div_pow]
    exact Nat.and_two_pow_sub_one_eq_mod _ 6
  rw [utf8Tail, hand]
  exact or_eq_add (i := 6) 2 (Nat.mod_lt _ (by decide))

/-- The first byte of a form, `256 - 2^(i+1)` above the bits it holds. -/
theorem utf8_lead {i j a c : Nat} (h : c < 2 ^ i * 2 ^ j) : (2 ^ i * a) ||| (c >>> j) = 2 ^ i * a + c / 2 ^ j := by
  rw [Nat.shiftRight_eq_div_pow]
  exact or_eq_add a (Nat.div_lt_of_lt_mul (by rwa [Nat.mul_comm] at h))

theorem utf8_of_le {c : Nat} (h : c ≤ 0x7F) : utf8 c = [c] := if_pos h

/-- The forms of two to six bytes: a lead byte of the form, continuation bytes, and the character they spell. -/
theorem exists_utf8_eq_cons {c : Nat} (h : 0x7F < c) (hmax : c ≤ 0x7FFFFFFF) : ∃ lead tail,
    utf8 c = lead :: tail ∧ tail.length = utf8Tails c ∧ (∀ b ∈ tail, 0x80 ≤ b ∧ b ≤ 0xBF) ∧
    256 - 2 ^ (7 - tail.length) ≤ lead ∧ lead < 256 - 2 ^ (6 - tail.length) ∧
    c = tail.foldl (fun n b => 64 * n + (b - 0x80)) (lead - (256 - 2 ^ (7 - tail.length))) := by
  have htail : ∀ k, 0x80 ≤ utf8Tail c k ∧ utf8Tail c k ≤ 0xBF := fun k => by
    rw [utf8Tail_eq]
    omega
  unfold utf8 utf8Tails
  split_ifs with h1 h2 h3 h4 h5
  · omega
  · refine ⟨_, _, rfl, rfl, by simp [htail], ?_⟩
    have hlead := utf8_lead (i := 5) (j := 6) (a := 6) (c := c) (by omega)
    simp only [utf8Tail_eq, List.length_cons, List.length_nil, List.foldl_cons, List.foldl_nil] at hlead ⊢
    norm_num at hlead ⊢
    omega
  · refine ⟨_, _, rfl, rfl, by simp [htail], ?_⟩
    have hlead := utf8_lead (i := 4) (j := 12) (a := 14) (c := c) (by omega)
    simp only [utf8Tail_eq, List.length_cons, List.length_nil, List.foldl_cons, List.foldl_nil] at hlead ⊢
    norm_num at hlead ⊢
    omega
  · refine ⟨_, _, rfl, rfl, by simp [htail], ?_⟩
    have hlead := utf8_lead (i := 3) (j := 18) (a := 30) (c := c) (by omega)
    simp only [utf8Tail_eq, List.length_cons, List.length_nil, List.foldl_cons, List.foldl_nil] at hlead ⊢
    norm_num at hlead ⊢
    omega
  · refine ⟨_, _, rfl, rfl, by simp [htail], ?_⟩
    have hlead := utf8_lead (i := 2) (j := 24) (a := 62) (c := c) (by omega)
    simp only [utf8Tail_eq, List.length_cons, List.length_nil, List.foldl_cons, List.foldl_nil] at hlead ⊢
    norm_num at hlead ⊢
    omega
  · refine ⟨_, _, rfl, rfl, by simp [htail], ?_⟩
    have hlead := utf8_lead (i := 1) (j := 30) (a := 126) (c := c) (by omega)
    simp only [utf8Tail_eq, List.length_cons, List.length_nil, List.foldl_cons, List.foldl_nil] at hlead ⊢
    norm_num at hlead ⊢
    omega

/-- Every UTF-8 unit is a byte. -/
theorem utf8_lt {c : Nat} (hmax : c ≤ 0x7FFFFFFF) : ∀ b ∈ utf8 c, b < 256 := by
  intro b hb
  by_cases h : c ≤ 0x7F
  · rw [utf8_of_le h, List.mem_singleton] at hb
    omega
  · obtain ⟨lead, tail, heq, -, htail, -, hlead, -⟩ := exists_utf8_eq_cons (by omega) hmax
    rw [heq, List.mem_cons] at hb
    rcases hb with rfl | hb
    · have := Nat.two_pow_pos (6 - tail.length)
      omega
    · have := htail b hb
      omega

/-! ## Kanji values (R224) -/

theorem kval_eq (k : Nat) : kval k = (k - kanjiOffset k) / 256 * 0xC0 + (k - kanjiOffset k) % 256 := by
  have h : ∀ x : Nat, (x >>> 8) * 0xC0 + (x &&& 0xFF) = x / 256 * 0xC0 + x % 256 := fun x => by
    rw [Nat.shiftRight_eq_div_pow, show x &&& 0xFF = x % 256 from Nat.and_two_pow_sub_one_eq_mod x 8]
  unfold kval kanjiOffset
  split_ifs <;> exact h _

theorem kval_lt {k : Nat} (h : (0x8140 ≤ k ∧ k ≤ 0x9FFC) ∨ (0xE040 ≤ k ∧ k ≤ 0xEBBF)) : kval k < 2 ^ 13 := by
  rw [kval_eq]
  unfold kanjiOffset
  split_ifs <;> omega

/-! ## The payload of a valid segment (R220) -/

theorem Segment.items_lt {g : Segment} (h : g.Valid) : ∀ p ∈ g.items, p.1 < 2 ^ p.2 := by
  obtain ⟨mode, chars⟩ := g
  cases mode with
  | numeric =>
    refine itemsNumeric_lt _ fun x hx => ?_
    obtain ⟨c, hc, rfl⟩ := List.mem_map.mp hx
    have hv : 0x30 ≤ c ∧ c ≤ 0x39 := by simpa [validChar] using h c hc
    omega
  | alphanumeric => exact itemsAlnum_lt chars fun c hc => by simpa [validChar] using h c hc
  | byte =>
    intro p hp
    obtain ⟨b, hb, rfl⟩ := List.mem_map.mp hp
    rcases List.mem_append.mp hb with hb | hb
    · have hbom : ∀ b ∈ bom, b < 2 ^ 8 := by decide
      exact hbom b hb
    · obtain ⟨c, hc, hbc⟩ := List.mem_flatMap.mp hb
      exact utf8_lt (by simpa [validChar] using h c hc) b hbc
  | kanji =>
    intro p hp
    obtain ⟨k, hk, rfl⟩ := List.mem_map.mp hp
    exact kval_lt (by simpa [validChar] using h k hk)

/-- Settles O34: each encoder's values by recursion on the characters, and UTF-8 by its ranges. -/
theorem payloadValuesFitTheirWidths : Obligations.PayloadValuesFitTheirWidths := by
  unfold Obligations.PayloadValuesFitTheirWidths
  refine ⟨?_, fun c hc => utf8_of_le hc, fun c h hmax => exists_utf8_eq_cons h hmax⟩
  rintro ⟨mode, chars⟩ hv
  refine ⟨Segment.items_lt hv, ?_, ?_, ?_, ?_⟩
  · rintro (rfl : mode = .numeric)
    refine ⟨by simp [Segment.items, length_itemsNumeric], ?_⟩
    rintro k _ hk rfl
    have hitem := getElem?_itemsNumeric (chars.map (fun c => c - 0x30)) (k := k) (by simpa using hk)
    rw [← List.map_drop, ← List.map_take, List.foldl_map, List.length_map] at hitem
    exact hitem
  · rintro (rfl : mode = .alphanumeric)
    have hcode : ∀ k < chars.length, acode (chars.getD k 0) = alnumCode (chars.getD k 0) := fun k hk => by
      rw [List.getD_eq_getElem _ _ hk]
      exact (acode_spec _ (by simpa [validChar] using hv _ (List.getElem_mem hk))).2
    refine ⟨length_itemsAlnum chars, fun k => ⟨fun hk => ?_, fun hk => ?_⟩⟩
    · have hk' : 2 * k + 1 < chars.length := hk
      rw [← hcode _ (by omega), ← hcode _ hk']
      exact (getElem?_itemsAlnum chars k).1 hk
    · have hk' : 2 * k + 1 = chars.length := hk
      rw [← hcode _ (by omega)]
      exact (getElem?_itemsAlnum chars k).2 hk
  · rintro (rfl : mode = .byte)
    rw [Segment.items, itemsByte, List.map_append, List.map_flatMap]
    rfl
  · rintro (rfl : mode = .kanji)
    exact List.map_congr_left fun k _ => by rw [kval_eq]

/-! ## Descriptors (10_state.md R52) -/

@[simp] theorem Mode.ofBits_indicator (m : Mode) : Mode.ofBits (Mode.indicator m) = some m := by cases m <;> rfl

theorem Mode.ofBits_eq_none {b : BitVec 4} (h : ∀ m, b ≠ Mode.indicator m) : Mode.ofBits b = none := by
  simp [Mode.ofBits, h]

theorem Mode.eq_indicator_of_ofBits {b : BitVec 4} {m : Mode} (h : Mode.ofBits b = some m) : b = Mode.indicator m := by
  unfold Mode.ofBits at h
  split_ifs at h <;> · injection h with h; subst h; assumption

/-- A descriptor of a legal mode within TEXT. -/
theorem State.segment_of_legal {s : State} {k : Nat} {mode : Mode} (hmode : s.segMode k = Mode.indicator mode)
    (hlen : s.segStart k + s.segLen k ≤ 8192) : s.segment k = some ⟨mode, s.segChars k⟩ := by
  simp [State.segment, State.segWellFormed, hmode, hlen]

theorem State.segment_of_illegal {s : State} {k : Nat}
    (h : (∀ mode, s.segMode k ≠ Mode.indicator mode) ∨ 8192 < s.segStart k + s.segLen k) : s.segment k = none := by
  refine if_neg fun hwf => ?_
  simp only [State.segWellFormed, Bool.and_eq_true, decide_eq_true_eq, Config.textCap] at hwf
  rcases h with h | h
  · simp [Mode.ofBits_eq_none h] at hwf
  · omega

/-- What a well-formed descriptor says of its segment. -/
theorem State.segment_eq_some {s : State} {k : Nat} {g : Segment} (h : s.segment k = some g) :
    s.segMode k = Mode.indicator g.mode ∧ s.segStart k + s.segLen k ≤ 8192 ∧ g.chars = s.segChars k := by
  unfold State.segment at h
  split_ifs at h with hwf
  simp only [State.segWellFormed, Bool.and_eq_true, decide_eq_true_eq, Config.textCap] at hwf
  obtain ⟨m, hm, rfl⟩ := Option.map_eq_some_iff.mp h
  exact ⟨Mode.eq_indicator_of_ofBits hm, hwf.2, rfl⟩

theorem Segment.firstBad_eq_none_iff {g : Segment} : g.firstBad = none ↔ g.Valid := by
  simp [Segment.firstBad, Segment.Valid, List.findIdx?_eq_none_iff]

/-- The first invalid character. -/
theorem Segment.firstBad_eq_some {g : Segment} {j c : Nat} (hj : g.chars[j]? = some c)
    (hc : validChar g.mode c = false) (hbefore : ∀ i x, i < j → g.chars[i]? = some x → validChar g.mode x = true) :
    g.firstBad = some j := by
  obtain ⟨hlt, rfl⟩ := List.getElem?_eq_some_iff.mp hj
  refine List.findIdx?_eq_some_iff_getElem.mpr ⟨hlt, by simpa using hc, fun i hi => ?_⟩
  simpa using hbefore i _ hi (List.getElem?_eq_getElem (by omega))

/-! ## SEG_WRITE (R228) -/

section
variable {s : State} {g : Segment}

theorem exec_segWrite_of_none (h : s.segWriteOperand = none) :
    exec .segWrite s = .next (s.complete .badArgument) := by
  change execSegWrite s = _
  rw [execSegWrite, h]
  rfl

theorem exec_segWrite_of_firstBad (h : s.segWriteOperand = some g) {j : Nat} (hj : g.firstBad = some j) :
    exec .segWrite s = .next (((s.setRes0 s.arg0).setRes1 (zext j)).complete .invalidCharacter) := by
  change execSegWrite s = _
  simp only [execSegWrite, h, hj]
  rfl

/-- The command once the text is valid. -/
theorem exec_segWrite_of_valid (h : s.segWriteOperand = some g) (hv : g.Valid) : exec .segWrite s =
    if 2 ^ lenw g.mode s.arg1.toNat ≤ g.count then .next (s.complete .codeTooLarge)
    else if 23648 < s.bb.length + g.bitLength s.arg1.toNat then .next (s.complete .resourceLimit)
    else .next ((((s.appendBits (g.bits s.arg1.toNat)).setRes0 (zext (g.bitLength s.arg1.toNat))).setRes1
      (zext g.count)).complete .none) := by
  have hlen : (s.appendBits (g.bits s.arg1.toNat)).bbLen - s.bbLen = g.bitLength s.arg1.toNat := by
    rw [State.bbLen, State.appendBits_bb, List.length_append, g.length_bits, Nat.add_sub_cancel_left]
  change execSegWrite s = _
  simp only [execSegWrite, h, Segment.firstBad_eq_none_iff.mpr hv]
  rw [hlen]
  rfl

theorem State.segWriteOperand_of_legal {mode : Mode} (h0 : s.arg0.toNat < 64) (h1 : 1 ≤ s.arg1.toNat)
    (h40 : s.arg1.toNat ≤ 40) (hmode : s.segMode s.arg0.toNat = Mode.indicator mode)
    (hlen : s.segStart s.arg0.toNat + s.segLen s.arg0.toNat ≤ 8192) :
    s.segWriteOperand = some ⟨mode, s.segChars s.arg0.toNat⟩ := by
  rw [← State.segment_of_legal hmode hlen]
  exact if_neg (by simp [argU, Config.segCap, Config.versionMax]; omega)

theorem State.segWriteOperand_of_illegal (h : 64 ≤ s.arg0.toNat ∨ s.arg1.toNat < 1 ∨ 40 < s.arg1.toNat ∨
    (∀ mode, s.segMode s.arg0.toNat ≠ Mode.indicator mode) ∨
    8192 < s.segStart s.arg0.toNat + s.segLen s.arg0.toNat) : s.segWriteOperand = none := by
  unfold State.segWriteOperand
  split_ifs with hc
  · rfl
  · simp only [argU, Config.segCap, Config.versionMax, Bool.or_eq_true, decide_eq_true_eq, not_or] at hc
    obtain ⟨⟨h0, h1⟩, h40⟩ := hc
    exact State.segment_of_illegal (((h.resolve_left h0).resolve_left h1).resolve_left h40)

end

/-- Settles O35: the last branch of the command. -/
theorem segWriteCommand : Obligations.SegWriteCommand := by
  unfold Obligations.SegWriteCommand
  rintro s mode g h0 h1 h40 hmode hlen rfl hv hcount hroom
  rw [exec_segWrite_of_valid (State.segWriteOperand_of_legal h0 h1 h40 hmode hlen) hv,
    if_neg (Nat.not_le.mpr hcount), if_neg (Nat.not_lt.mpr hroom)]
  rfl

/-- Settles O36: the branches of the command before it, in R228's order. -/
theorem segWriteRaisesInOrder : Obligations.SegWriteRaisesInOrder := by
  unfold Obligations.SegWriteRaisesInOrder
  refine fun s => ⟨fun h => exec_segWrite_of_none (State.segWriteOperand_of_illegal h), ?_⟩
  rintro mode g h0 h1 h40 hmode hlen rfl
  have hop := State.segWriteOperand_of_legal h0 h1 h40 hmode hlen
  refine ⟨fun j c hj hc hbefore => exec_segWrite_of_firstBad hop (Segment.firstBad_eq_some hj hc hbefore),
    fun hv hcount => ?_, fun hv hcount hroom => ?_⟩
  · rw [exec_segWrite_of_valid hop hv, if_pos hcount]
    rfl
  · rw [exec_segWrite_of_valid hop hv, if_neg (Nat.not_le.mpr hcount), if_pos hroom]
    rfl

end Sys2Proof.Machine
end

section
/-! SUPPORT. Mask selection and version selection (45_mask_select.md R336, 43_assembler.md R250): the first least score,
and the first version that fits. -/

namespace Sys2Proof.Machine

/-! ## The first minimum (R336) -/

/-- Among ids in rising order the search keeps the first of least score. -/
theorem bestOf_spec (score : Nat → Nat) {best : Nat} {ms : List Nat} (h : (best :: ms).Pairwise (· < ·)) :
    bestOf score best (score best) ms ∈ best :: ms ∧ ∀ k ∈ best :: ms,
      score (bestOf score best (score best) ms) ≤ score k ∧
      (k < bestOf score best (score best) ms → score (bestOf score best (score best) ms) < score k) := by
  induction ms generalizing best with
  | nil => simp [bestOf]
  | cons m ms ih =>
    obtain ⟨hbest, hms⟩ := List.pairwise_cons.mp h
    by_cases hlt : score m < score best
    · have heq : bestOf score best (score best) (m :: ms) = bestOf score m (score m) ms := if_pos hlt
      obtain ⟨hmem, hmin⟩ := ih hms
      rw [heq]
      refine ⟨List.mem_cons_of_mem _ hmem, List.forall_mem_cons.mpr ⟨?_, hmin⟩⟩
      have := (hmin m (by simp)).1
      omega
    · have heq : bestOf score best (score best) (m :: ms) = bestOf score best (score best) ms := if_neg hlt
      obtain ⟨hmem, hmin⟩ := ih (best := best) (h.sublist (by simp))
      rw [heq]
      generalize bestOf score best (score best) ms = r at hmem hmin
      refine ⟨by rcases List.mem_cons.mp hmem with rfl | hr <;> simp [*], ?_⟩
      have hle := (hmin best (by simp)).1
      refine List.forall_mem_cons.mpr ⟨hmin best (by simp), List.forall_mem_cons.mpr ⟨⟨by omega, fun hmr => ?_⟩,
        fun k hk => hmin k (by simp [hk])⟩⟩
      have hbm := hbest m (by simp)
      have := (hmin best (by simp)).2 (by omega)
      omega

theorem selectMask_spec (v : Nat) (eb : BitVec 2) (cws : List Byte) :
    selectMask v eb cws ≤ 7 ∧ ∀ k ≤ 7, maskScore v eb cws (selectMask v eb cws) ≤ maskScore v eb cws k ∧
      (k < selectMask v eb cws → maskScore v eb cws (selectMask v eb cws) < maskScore v eb cws k) := by
  obtain ⟨hmem, hmin⟩ := bestOf_spec (maskScore v eb cws) (best := 0) (ms := [1, 2, 3, 4, 5, 6, 7]) (by decide)
  have hids : ∀ k, k ∈ [0, 1, 2, 3, 4, 5, 6, 7] ↔ k ≤ 7 := fun k => by
    simp
    omega
  exact ⟨(hids _).mp hmem, fun k hk => hmin k ((hids k).mpr hk)⟩

/-- Settles O47: the first minimum is unique. -/
theorem maskChoiceIsTheFirstMinimum : Obligations.MaskChoiceIsTheFirstMinimum := by
  unfold Obligations.MaskChoiceIsTheFirstMinimum
  intro v eb cws m
  obtain ⟨hle, hmin⟩ := selectMask_spec v eb cws
  constructor
  · rintro rfl
    exact ⟨hle, fun k hk => (hmin k hk).1, fun k hk => (hmin k (by omega)).2 hk⟩
  · rintro ⟨hm, hleast, hfirst⟩
    have h1 := (hmin m hm).1
    have h2 : maskScore v eb cws m ≤ maskScore v eb cws (selectMask v eb cws) := hleast _ hle
    rcases Nat.lt_trichotomy (selectMask v eb cws) m with hlt | heq | hgt
    · have : maskScore v eb cws m < maskScore v eb cws (selectMask v eb cws) := hfirst _ hlt
      omega
    · exact heq
    · have := (hmin m hm).2 hgt
      omega

/-! ## The smallest version (R250) -/

theorem find?_versions_eq_some {p : Nat → Bool} {v : Nat} :
    versions.find? p = some v ↔ 1 ≤ v ∧ v ≤ 40 ∧ p v = true ∧ ∀ u, 1 ≤ u → u < v → p u = false := by
  rw [versions, List.find?_map, Option.map_eq_some_iff]
  constructor
  · rintro ⟨i, hi, rfl⟩
    obtain ⟨hp, hmem, hbefore⟩ := List.find?_range_eq_some.mp hi
    refine ⟨by omega, by simpa using Nat.succ_le_of_lt (List.mem_range.mp hmem), hp, fun u h1 hu => ?_⟩
    have := hbefore (u - 1) (by omega)
    simpa [Nat.sub_add_cancel h1] using this
  · rintro ⟨h1, h40, hp, hbefore⟩
    refine ⟨v - 1, List.find?_range_eq_some.mpr ⟨?_, List.mem_range.mpr ?_, fun j hj => ?_⟩, by omega⟩
    · simpa [Nat.sub_add_cancel h1] using hp
    · simp only [Config.versionMax]
      omega
    · simpa using hbefore (j + 1) (by omega) (by omega)

theorem find?_versions_eq_none {p : Nat → Bool} :
    versions.find? p = none ↔ ∀ v, 1 ≤ v → v ≤ 40 → p v = false := by
  rw [List.find?_eq_none]
  constructor
  · intro h v h1 h40
    have hmem : v ∈ versions := List.mem_map.mpr ⟨v - 1, by simp [Config.versionMax]; omega, by omega⟩
    simpa using h v hmem
  · intro h v hv
    obtain ⟨i, hi, rfl⟩ := List.mem_map.mp hv
    simpa using h (i + 1) (by omega) (by simpa [Config.versionMax, Nat.succ_le_iff] using hi)

theorem selectVersion_eq_ok_iff {cfg : Nat} {segs : List Segment} {ecl : Level} {v : Nat} :
    selectVersion cfg segs ecl = .ok v ↔ VersionChosen cfg segs ecl v := by
  unfold selectVersion VersionChosen
  by_cases h0 : cfg = 0
  · have hfind := find?_versions_eq_some (p := fun v => decide (totalBits segs v ≤ capbits v ecl)) (v := v)
    simp only [decide_eq_true_eq, decide_eq_false_iff_not, Nat.not_le] at hfind
    simp only [h0, bne_self_eq_false, Bool.false_eq_true, if_false, ne_eq, not_true_eq_false, false_and, false_or,
      true_and]
    rw [← hfind]
    cases versions.find? (fun v => decide (totalBits segs v ≤ capbits v ecl)) <;> simp
  · simp [h0, @eq_comm _ v]

theorem selectVersion_eq_error_iff {cfg : Nat} {segs : List Segment} {ecl : Level} {e : ErrCode} :
    selectVersion cfg segs ecl = .error e ↔
      e = .codeTooLarge ∧ cfg = 0 ∧ ∀ v, 1 ≤ v → v ≤ 40 → capbits v ecl < totalBits segs v := by
  unfold selectVersion
  by_cases h0 : cfg = 0
  · have hfind := find?_versions_eq_none (p := fun v => decide (totalBits segs v ≤ capbits v ecl))
    simp only [decide_eq_false_iff_not, Nat.not_le] at hfind
    simp only [h0, bne_self_eq_false, Bool.false_eq_true, if_false, true_and]
    rw [← hfind]
    cases versions.find? (fun v => decide (totalBits segs v ≤ capbits v ecl)) with
    | none => simp [@eq_comm _ e]
    | some v => simp
  · simp [h0]

/-- Settles O48: the probe is the first version that fits, and the rule's example. -/
theorem selectedVersionIsTheSmallestFit : Obligations.SelectedVersionIsTheSmallestFit := by
  unfold Obligations.SelectedVersionIsTheSmallestFit
  exact ⟨fun cfg segs ecl => ⟨fun v => selectVersion_eq_ok_iff, fun e => selectVersion_eq_error_iff⟩,
    rfl, rfl, rfl, rfl, by decide +kernel, rfl⟩

end Sys2Proof.Machine
end

section
/-! SUPPORT. Interleaving (43_assembler.md R258): where the column-major reading puts each codeword. -/

namespace Sys2Proof.Machine

/-- An entry of one part of a concatenation over 0, 1, …, n − 1. -/
theorem getElem?_flatMap_range {α : Type} (f : Nat → List α) {n i p : Nat} (hi : i < n) (hp : p < (f i).length) :
    ((List.range n).flatMap f)[((List.range i).map (fun j => (f j).length)).sum + p]? = (f i)[p]? := by
  induction n with
  | zero => omega
  | succ n ih =>
    have hlen : ((List.range i).flatMap f).length = ((List.range i).map (fun j => (f j).length)).sum := by
      simp [List.length_flatMap]
    rw [List.range_succ, List.flatMap_append, List.flatMap_singleton]
    rcases Nat.lt_or_ge i n with h | h
    · have hsome := ih h
      rw [List.getElem?_append_left, hsome]
      by_contra hge
      rw [List.getElem?_eq_none (Nat.not_lt.mp hge), List.getElem?_eq_getElem hp] at hsome
      cases hsome
    · obtain rfl : i = n := by omega
      rw [← hlen, List.getElem?_append_right (by omega), Nat.add_sub_cancel_left]

section
variable (blocks : List (List Byte))

/-- Column i of a list of blocks. -/
def column (i : Nat) : List Byte := blocks.filterMap (fun b => b[i]?)

theorem column_cons (d : List Byte) (i : Nat) : column (d :: blocks) i = (d[i]?).toList ++ column blocks i := by
  rw [column, List.filterMap_cons]
  cases d[i]? <;> rfl

theorem length_toList_getElem? (d : List Byte) (i : Nat) : (d[i]?).toList.length = if i < d.length then 1 else 0 := by
  by_cases h : i < d.length <;> simp [h]

theorem length_column (i : Nat) : (column blocks i).length = (blocks.filter (fun c => decide (i < c.length))).length := by
  induction blocks with
  | nil => rfl
  | cons c blocks ih =>
    rw [column_cons, List.length_append, ih, length_toList_getElem?, List.filter_cons]
    by_cases h : i < c.length
    · simp [h, Nat.add_comm]
    · simp [h]

theorem sum_min_add_length_column (n : Nat) : (blocks.map (fun c => min n c.length)).sum + (column blocks n).length =
    (blocks.map (fun c => min (n + 1) c.length)).sum := by
  induction blocks with
  | nil => rfl
  | cons c blocks ih =>
    rw [column_cons, List.length_append, length_toList_getElem?, List.map_cons, List.sum_cons, List.map_cons,
      List.sum_cons]
    split_ifs <;> omega

/-- The first n columns hold the first n codewords of every block. -/
theorem sum_length_column (n : Nat) : ((List.range n).map (fun i => (column blocks i).length)).sum =
    (blocks.map (fun c => min n c.length)).sum := by
  induction n with
  | zero => simp
  | succ n ih => rw [List.range_succ, List.map_append, List.sum_append, ih, List.map_singleton, List.sum_singleton,
      sum_min_add_length_column]

/-- In column i the codeword of block b stands after those of the earlier blocks that have one. -/
theorem getElem?_column {b i : Nat} {block : List Byte} {x : Byte} (hb : blocks[b]? = some block)
    (hx : block[i]? = some x) : (column blocks i)[(column (blocks.take b) i).length]? = some x := by
  induction blocks generalizing b with
  | nil => simp at hb
  | cons c blocks ih =>
    cases b with
    | zero =>
      obtain rfl : c = block := by simpa using hb
      rw [column_cons, hx]
      rfl
    | succ b =>
      rw [List.take_succ_cons, column_cons, column_cons, List.length_append,
        List.getElem?_append_right (Nat.le_add_right _ _), Nat.add_sub_cancel_left]
      exact ih (by simpa using hb)

theorem length_le_foldr_max {c : List Byte} (hc : c ∈ blocks) : c.length ≤ (blocks.map List.length).foldr max 0 := by
  induction blocks with
  | nil => cases hc
  | cons d blocks ih =>
    rw [List.map_cons, List.foldr_cons]
    rcases List.mem_cons.mp hc with rfl | hc
    · exact Nat.le_max_left _ _
    · exact (ih hc).trans (Nat.le_max_right _ _)

theorem length_columns : (columns blocks).length = (blocks.map List.length).sum := by
  rw [columns, List.length_flatMap]
  refine (sum_length_column blocks _).trans (congrArg List.sum (List.map_congr_left fun c hc => ?_))
  exact Nat.min_eq_right (length_le_foldr_max blocks hc)

theorem getElem?_columns {b i : Nat} {block : List Byte} {x : Byte} (hb : blocks[b]? = some block)
    (hx : block[i]? = some x) : (columns blocks)[columnPlace blocks b i]? = some x := by
  have hi : i < block.length := (List.getElem?_eq_some_iff.mp hx).1
  have hmax := length_le_foldr_max blocks (List.mem_of_getElem? hb)
  have hcol := getElem?_column blocks hb hx
  have hp : (column (blocks.take b) i).length < (column blocks i).length := (List.getElem?_eq_some_iff.mp hcol).1
  have hplace := getElem?_flatMap_range (column blocks)
    (n := (blocks.map List.length).foldr max 0) (i := i) (by omega) hp
  rw [hcol, sum_length_column, length_column] at hplace
  exact hplace

end

/-- Settles O50: the place by the columns before it and the blocks before it in its column. -/
theorem interleavePlacesEveryCodeword : Obligations.InterleavePlacesEveryCodeword := by
  unfold Obligations.InterleavePlacesEveryCodeword
  refine ⟨fun blocks => ⟨length_columns blocks, fun b i block x => getElem?_columns blocks⟩, fun pairs => ?_⟩
  have hdata : (columns (pairs.map Prod.fst)).length = (pairs.map (fun p => p.1.length)).sum := by
    rw [length_columns, List.map_map]
    rfl
  have hecc : (columns (pairs.map Prod.snd)).length = (pairs.map (fun p => p.2.length)).sum := by
    rw [length_columns, List.map_map]
    rfl
  refine ⟨by rw [interleave, List.length_append, hdata, hecc], fun b i data ecc x hb => ⟨fun hx => ?_, fun hx => ?_⟩⟩
  · have hcol := getElem?_columns (pairs.map Prod.fst) (b := b) (by rw [List.getElem?_map, hb]; rfl) hx
    rw [interleave, List.getElem?_append_left (List.getElem?_eq_some_iff.mp hcol).1, hcol]
  · have hcol := getElem?_columns (pairs.map Prod.snd) (b := b) (by rw [List.getElem?_map, hb]; rfl) hx
    rw [interleave, ← hdata, List.getElem?_append_right (by omega), Nat.add_sub_cancel_left, hcol]

end Sys2Proof.Machine
end

section
/-! SUPPORT. The assembler (43_assembler.md R252 to R259): the padded buffer fills the capacity, the block table fits the
core's memories, and every block is within the range of `rs_ecc`. -/

namespace Sys2Proof.Machine

/-! ## The block table (R183, R184) -/

/-- Every block of the table has between 1 and 254 check codewords. -/
theorem blockGroups_check : ∀ v ≤ 40, ∀ ecl ∈ [Level.l, .m, .q, .h], ∀ g ∈ blockGroups v ecl,
    g.data < g.total ∧ g.total ≤ g.data + 254 := by decide +kernel

/-- The totals of the table: the same for all levels, and within the memories of R10. -/
theorem blockTable_totals : ∀ v ≤ 40, ∀ ecl ∈ [Level.l, .m, .q, .h],
    capbits v ecl ≤ 23648 ∧ totalcw v ecl = totalcw v .l ∧ totalcw v ecl ≤ 3706 := by decide +kernel

theorem Level.mem_all (ecl : Level) : ecl ∈ [Level.l, .m, .q, .h] := by cases ecl <;> decide

theorem rsblocks_check {v : Nat} (hv : v ≤ 40) (ecl : Level) {t d : Nat} (h : (t, d) ∈ rsblocks v ecl) :
    d < t ∧ t ≤ d + 254 := by
  obtain ⟨g, hg, hmem⟩ := List.mem_flatMap.mp h
  have heq := List.eq_of_mem_replicate hmem
  injection heq with ht hd
  have := blockGroups_check v hv ecl ecl.mem_all g hg
  omega

/-! ## The padded buffer (R253 to R256) -/

theorem length_segmentBits (segs : List Segment) (v : Nat) : (segmentBits segs v).length = totalBits segs v := by
  rw [segmentBits, List.length_flatMap, totalBits]
  exact congrArg List.sum (List.map_congr_left fun g _ => g.length_bits v)

/-- Terminator and bit padding are the zeros the statements count. -/
theorem addBitPadding_addTerminator (bits : List Bool) (cap : Nat) :
    addBitPadding (addTerminator cap bits) = bits ++ List.replicate (paddingZeros bits.length cap) false := by
  rw [addBitPadding, length_addTerminator, addTerminator]
  unfold paddingZeros
  split_ifs with h
  · rw [List.append_assoc, show bitsMsb 0 4 = List.replicate 4 false from rfl, List.replicate_append_replicate]
  · simp only [Nat.add_zero, Nat.zero_add]

/-- The zeros end at a byte boundary within a capacity of whole bytes. -/
theorem paddingZeros_spec {used n : Nat} (h : used ≤ 8 * n) : paddingZeros used (8 * n) ≤ 11 ∧
    (used + paddingZeros used (8 * n)) % 8 = 0 ∧ used + paddingZeros used (8 * n) ≤ 8 * n := by
  simp only [paddingZeros]
  split_ifs <;> omega

section
variable {segs : List Segment} {v n : Nat}

theorem dataBits_eq (segs : List Segment) (v cap : Nat) : dataBits segs v cap =
    addBytePadding cap (segmentBits segs v ++ List.replicate (paddingZeros (totalBits segs v) cap) false) := by
  rw [dataBits, addBitPadding_addTerminator, length_segmentBits]

theorem length_dataBits (h : totalBits segs v ≤ 8 * n) : (dataBits segs v (8 * n)).length = 8 * n := by
  have hz := paddingZeros_spec h
  rw [dataBits_eq, length_addBytePadding, List.length_append, length_segmentBits, List.length_replicate]
  omega

theorem take_dataBits {k : Nat} (hk : totalBits segs v + paddingZeros (totalBits segs v) (8 * n) = 8 * k) :
    (dataBits segs v (8 * n)).take (8 * k) =
      segmentBits segs v ++ List.replicate (paddingZeros (totalBits segs v) (8 * n)) false := by
  rw [dataBits_eq, addBytePadding, List.take_append_of_le_length (by simp [length_segmentBits]; omega),
    List.take_of_length_le (by simp [length_segmentBits]; omega)]

end

/-! ## The pad bytes (R191, R256) -/

theorem bbByte_append_right {p : List Bool} {k i : Nat} (hp : p.length = 8 * k) (hi : k ≤ i) (q : List Bool) :
    bbByte (p ++ q) i = bbByte q (i - k) := by
  rw [bbByte, show 8 * i = p.length + 8 * (i - k) by omega, List.drop_length_add_append, bbByte]

theorem drop_padBytes (k n j : Nat) : (padBytes k n).drop (8 * j) = padBytes (k + j) (n - j) := by
  induction j generalizing k n with
  | zero => rfl
  | succ j ih =>
    cases n with
    | zero => simp [padBytes]
    | succ n =>
      rw [padBytes, show 8 * (j + 1) = (bitsMsb (padByte k) 8).length + 8 * j by rw [length_bitsMsb]; omega,
        List.drop_length_add_append, ih, Nat.add_sub_add_right, show k + 1 + j = k + (j + 1) by omega]

theorem bbByte_padBytes {n j : Nat} (hj : j < n) :
    bbByte (padBytes 0 n) j = if j % 2 = 0 then 0xEC#8 else 0x11#8 := by
  obtain ⟨m, hm⟩ := Nat.exists_eq_add_one.mpr (show 0 < n - j by omega)
  have hpad : ∀ (b : Nat) (q : List Bool), bbByte (bitsMsb b 8 ++ q) 0 = BitVec.ofNat 8 (natOfBits (bitsMsb b 8)) :=
    fun b q => by
      rw [bbByte, List.drop_zero, List.take_append_of_le_length (by simp), List.take_of_length_le (by simp),
        List.take_append_of_le_length (by simp), List.take_of_length_le (by simp)]
  rw [bbByte, drop_padBytes, Nat.zero_add, hm, padBytes]
  refine (hpad (padByte j) (padBytes (j + 1) m)).trans ?_
  unfold padByte
  split_ifs <;> decide

/-! ## The blocks (R257) -/

/-- The blocks of a table whose blocks are within the range of `rs_ecc`: the data cut in order, and each block's check
codewords. -/
theorem exists_encodeBlocks_eq_ok {blocks : List (Nat × Nat)} (data : List Byte)
    (hblocks : ∀ t d, (t, d) ∈ blocks → d < t ∧ t ≤ d + 254) :
    ∃ r, encodeBlocks blocks data = .ok r ∧ r.length = blocks.length ∧
      ∀ b t d, blocks[b]? = some (t, d) → ∃ ec,
        r[b]? = some ((data.drop ((blocks.take b).map Prod.snd).sum).take d, ec) ∧
        rsEcc ((data.drop ((blocks.take b).map Prod.snd).sum).take d) (t - d) = .ok ec ∧ ec.length = t - d := by
  induction blocks generalizing data with
  | nil => exact ⟨[], rfl, rfl, by simp⟩
  | cons p blocks ih =>
    obtain ⟨t, d⟩ := p
    have htd := hblocks t d (by simp)
    obtain ⟨r, hr, hlen, hblock⟩ := ih (data.drop d) fun t d h => hblocks t d (by simp [h])
    obtain ⟨ec, hecc⟩ : ∃ ec, rsEcc (data.take d) (t - d) = .ok ec :=
      ⟨_, rsEcc_eq_longDiv _ (by omega) (by omega)⟩
    refine ⟨(data.take d, ec) :: r, ?_, by rw [List.length_cons, hlen, List.length_cons], fun b t' d' hb => ?_⟩
    · rw [encodeBlocks, hecc]
      change (encodeBlocks blocks (data.drop d) >>= fun rest => _) = _
      rw [hr]
      rfl
    · cases b with
      | zero =>
        obtain ⟨rfl, rfl⟩ : t = t' ∧ d = d' := by simpa using hb
        exact ⟨ec, rfl, hecc, length_rsEcc hecc⟩
      | succ b =>
        obtain ⟨ec, h1, h2, h3⟩ := hblock b t' d' (by simpa using hb)
        rw [List.drop_drop] at h1 h2
        exact ⟨ec, h1, h2, h3⟩

/-- The bytes of a block, cut from all data codewords, are those the statements name. -/
theorem take_drop_dataCodewords {bits : List Bool} {cap off d : Nat} (h : off + d ≤ cap / 8) :
    ((dataCodewords bits cap).drop off).take d = (List.range d).map (fun j => bbByte bits (off + j)) := by
  apply List.ext_getElem
  · simp
    omega
  · intro i _ _
    simp [dataCodewords]

theorem sum_take_add_le_sum {l : List Nat} {b d : Nat} (h : l[b]? = some d) : (l.take b).sum + d ≤ l.sum := by
  obtain ⟨hlt, rfl⟩ := List.getElem?_eq_some_iff.mp h
  rw [← List.sum_take_succ l b hlt]
  exact (List.take_sublist _ _).sum_le_sum (by simp)

/-- Blocks of the table's sizes have its total together. -/
theorem sum_lengths_eq_totalcw {blocks : List (Nat × Nat)} {r : List (List Byte × List Byte)}
    (hlen : r.length = blocks.length) (h : ∀ (b t d : Nat), blocks[b]? = some (t, d) →
      ∃ p : List Byte × List Byte, r[b]? = some p ∧ p.1.length + p.2.length = t) :
    (r.map (fun p => p.1.length)).sum + (r.map (fun p => p.2.length)).sum = (blocks.map Prod.fst).sum := by
  rw [← List.sum_map_add]
  refine congrArg List.sum (List.ext_getElem (by simp [hlen]) fun b hb _ => ?_)
  have hb' : b < blocks.length := by simpa [hlen] using hb
  obtain ⟨p, hp, hsum⟩ := h b blocks[b].1 blocks[b].2 (List.getElem?_eq_getElem hb')
  rw [List.getElem?_eq_getElem (by omega)] at hp
  injection hp with hp
  simpa [hp] using hsum

theorem assemble_eq_ok {segs : List Segment} {v : Nat} {ecl : Level} {r : List (List Byte × List Byte)}
    (h : encodeBlocks (rsblocks v ecl) (dataCodewords (dataBits segs v (capbits v ecl)) (capbits v ecl)) = .ok r) :
    assemble segs v ecl = .ok ⟨dataBits segs v (capbits v ecl), interleave r⟩ := by
  rw [assemble, h]
  rfl

/-- Settles O49: the padded buffer, then the blocks of the table cut from it. -/
theorem assemblerFillsTheCapacity : Obligations.AssemblerFillsTheCapacity := by
  unfold Obligations.AssemblerFillsTheCapacity
  intro segs v ecl _ hv hfit
  obtain ⟨hcap, hsame, hcw⟩ := blockTable_totals v hv ecl ecl.mem_all
  have hcap8 : capbits v ecl = 8 * datacw v ecl := rfl
  have hlen : (dataBits segs v (capbits v ecl)).length = capbits v ecl := length_dataBits hfit
  obtain ⟨r, hr, hrlen, hblock⟩ := exists_encodeBlocks_eq_ok
    (dataCodewords (dataBits segs v (capbits v ecl)) (capbits v ecl)) fun t d h => rsblocks_check hv ecl h
  have hdata : ∀ b t d, (rsblocks v ecl)[b]? = some (t, d) →
      ((dataCodewords (dataBits segs v (capbits v ecl)) (capbits v ecl)).drop
        (((rsblocks v ecl).take b).map Prod.snd).sum).take d =
      blockData (dataBits segs v (capbits v ecl)) (rsblocks v ecl) b d := fun b t d hb => by
    refine take_drop_dataCodewords ?_
    rw [hcap8, Nat.mul_div_cancel_left _ (by decide), datacw, List.map_take]
    exact sum_take_add_le_sum (by rw [List.getElem?_map, hb]; rfl)
  refine ⟨_, r.map Prod.fst, r.map Prod.snd, assemble_eq_ok hr, hlen, hcap, ?_, hsame, hcw, ?_, rfl, by simp [hrlen],
    by simp [hrlen], rfl, fun b t d hb => ?_⟩
  · rw [interleave, List.length_append, length_columns, length_columns, List.map_map, List.map_map]
    refine sum_lengths_eq_totalcw hrlen fun b t d hb => ?_
    obtain ⟨ec, hrb, -, hec⟩ := hblock b t d hb
    have := rsblocks_check hv ecl (List.mem_of_getElem? hb)
    refine ⟨_, hrb, ?_⟩
    rw [hdata b t d hb, hec, blockData, List.length_map, List.length_range]
    omega
  · rintro z k rfl rfl
    obtain ⟨hz, hmod, hle⟩ := paddingZeros_spec (n := datacw v ecl) hfit
    rw [← hcap8] at hz hmod hle
    have hk : totalBits segs v + paddingZeros (totalBits segs v) (capbits v ecl) =
        8 * ((totalBits segs v + paddingZeros (totalBits segs v) (capbits v ecl)) / 8) := by omega
    refine ⟨hz, hk, by omega, take_dataBits hk, fun i hki hi => ?_⟩
    change bbByte (dataBits segs v (capbits v ecl)) i = _
    have hprefix : (segmentBits segs v ++ List.replicate (paddingZeros (totalBits segs v) (capbits v ecl)) false).length =
        8 * ((totalBits segs v + paddingZeros (totalBits segs v) (capbits v ecl)) / 8) := by
      rw [List.length_append, length_segmentBits, List.length_replicate, ← hk]
    rw [dataBits_eq, addBytePadding, bbByte_append_right hprefix hki, hprefix, bbByte_padBytes (by omega)]
  · obtain ⟨ec, hrb, hecc, hec⟩ := hblock b t d hb
    rw [hdata b t d hb] at hrb hecc
    refine ⟨ec, ?_, ?_, hecc, hec⟩ <;> rw [List.getElem?_map, hrb] <;> rfl

end Sys2Proof.Machine
end

section
/-! SUPPORT. The patterns of a grid (44_matrix.md R281 to R285): what a list of writes leaves in each cell, then the finders,
the alignment patterns and the timing patterns in the order of the builder. -/

namespace Sys2Proof.Machine

/-! ## Lists of writes -/

theorem shade_ne_unset (b : Bool) : shade b ≠ .unset := by cases b <;> decide

theorem shade_inj {a b : Bool} : shade a = shade b ↔ a = b := by cases a <;> cases b <;> decide

theorem Grid.putAll_append (g : Grid) (ws us : List CellWrite) : g.putAll (ws ++ us) = (g.putAll ws).putAll us :=
  List.foldl_append

/-- A place outside a square grid reads as UNSET. -/
theorem Grid.cell_of_ge {n : Nat} {g : Grid} (hg : Grid.Square n g) {i j : Nat} (h : n ≤ i ∨ n ≤ j) :
    g.cell i j = .unset := by
  unfold Grid.cell
  by_cases hi : i < g.length
  · have hrow : (g.getD i []).length = n := by
      rw [List.getD_eq_getElem _ _ hi]
      exact hg.2 _ (List.getElem_mem hi)
    have := hg.1
    exact List.getD_eq_default _ _ (by omega)
  · rw [List.getD_eq_default _ _ (Nat.not_lt.mp hi)]
    rfl

/-- Every write of the list is to a place of an n × n grid. -/
def Inside (n : Nat) (ws : List CellWrite) : Prop := ∀ w ∈ ws, w.row < n ∧ w.col < n

section
variable {n : Nat} {g : Grid} {ws : List CellWrite} {i j : Nat}

theorem Grid.cell_putAll_of_forall_ne (hg : Grid.Square n g) (hin : Inside n ws)
    (h : ∀ w ∈ ws, ¬ (w.row = i ∧ w.col = j)) : (g.putAll ws).cell i j = g.cell i j := by
  induction ws generalizing g with
  | nil => rfl
  | cons w ws ih =>
    obtain ⟨hw, hws⟩ := List.forall_mem_cons.mp h
    obtain ⟨⟨hr, hc⟩, hin⟩ := List.forall_mem_cons.mp hin
    refine (ih (Grid.square_put hg _ _ _) hin hws).trans ?_
    rw [Grid.cell_put hg hr hc, if_neg fun hh => hw ⟨hh.1.symm, hh.2.symm⟩]

/-- A written cell holds its value when no write of the list gives it another. -/
theorem Grid.cell_putAll_of_mem (hg : Grid.Square n g) (hin : Inside n ws) {w : CellWrite} (hw : w ∈ ws)
    (hsame : ∀ u ∈ ws, u.row = w.row → u.col = w.col → u.value = w.value) :
    (g.putAll ws).cell w.row w.col = w.value := by
  induction ws generalizing g w with
  | nil => cases hw
  | cons u ws ih =>
    obtain ⟨hu, hus⟩ := List.forall_mem_cons.mp hsame
    obtain ⟨⟨hr, hc⟩, hrest⟩ := List.forall_mem_cons.mp hin
    by_cases hlater : ∃ x ∈ ws, x.row = w.row ∧ x.col = w.col
    · obtain ⟨x, hx, hxr, hxc⟩ := hlater
      have hv := hus x hx hxr hxc
      rw [← hxr, ← hxc, ← hv]
      exact ih (Grid.square_put hg _ _ _) hrest hx fun y hy hyr hyc =>
        (hus y hy (hyr.trans hxr) (hyc.trans hxc)).trans hv.symm
    · obtain rfl : w = u := (List.mem_cons.mp hw).resolve_right fun hmem => hlater ⟨w, hmem, rfl, rfl⟩
      have hsq := Grid.square_put hg w.row w.col w.value
      have hlast := Grid.cell_putAll_of_forall_ne hsq hrest fun x hx hh => hlater ⟨x, hx, hh⟩
      exact hlast.trans (by rw [Grid.cell_put hg hr hc, if_pos ⟨rfl, rfl⟩])

/-- A list of writes that gives each cell of a region the colour of a picture. -/
def Paints (ws : List CellWrite) (region : Nat → Nat → Prop) (picture : Nat → Nat → GridCell) : Prop :=
  (∀ w ∈ ws, region w.row w.col ∧ w.value = picture w.row w.col) ∧
  ∀ i j, region i j → ∃ w ∈ ws, w.row = i ∧ w.col = j

variable {region : Nat → Nat → Prop} {picture : Nat → Nat → GridCell}

theorem Paints.inside (hp : Paints ws region picture) (hin : ∀ i j, region i j → i < n ∧ j < n) : Inside n ws :=
  fun w hw => hin _ _ (hp.1 w hw).1

theorem Paints.cell_of_region (hp : Paints ws region picture) (hin : ∀ i j, region i j → i < n ∧ j < n)
    (hg : Grid.Square n g) (h : region i j) : (g.putAll ws).cell i j = picture i j := by
  obtain ⟨w, hw, rfl, rfl⟩ := hp.2 i j h
  rw [Grid.cell_putAll_of_mem hg (hp.inside hin) hw fun u hu hur huc => ?_, (hp.1 w hw).2]
  rw [(hp.1 u hu).2, (hp.1 w hw).2, hur, huc]

theorem Paints.cell_of_not_region (hp : Paints ws region picture) (hin : ∀ i j, region i j → i < n ∧ j < n)
    (hg : Grid.Square n g) (h : ¬ region i j) : (g.putAll ws).cell i j = g.cell i j :=
  Grid.cell_putAll_of_forall_ne hg (hp.inside hin) fun w hw hh => h (hh.1 ▸ hh.2 ▸ (hp.1 w hw).1)

end

/-! ## Finders (R282, R283) -/

/-- The places of the finder with corner (r0, c0) and its separator, those inside the grid. -/
def FinderRegion (n r0 c0 i j : Nat) : Prop :=
  i < n ∧ j < n ∧ r0 ≤ i + 1 ∧ i < r0 + 8 ∧ c0 ≤ j + 1 ∧ j < c0 + 8

theorem finderWrites_paints (n r0 c0 : Nat) : Paints (finderWrites n r0 c0) (FinderRegion n r0 c0)
    (fun i j => shade (finderDark (i + 1 - r0) (j + 1 - c0))) := by
  constructor
  · intro w hw
    simp only [finderWrites, List.mem_flatMap, List.mem_filterMap, List.mem_range] at hw
    obtain ⟨r1, hr1, c1, hc1, hw⟩ := hw
    split_ifs at hw with h
    injection hw with hw
    subst hw
    refine ⟨by unfold FinderRegion; dsimp only; omega, ?_⟩
    dsimp only
    rw [show r0 + r1 - 1 + 1 - r0 = r1 by omega, show c0 + c1 - 1 + 1 - c0 = c1 by omega]
  · rintro i j ⟨hi, hj, hr0, hr8, hc0, hc8⟩
    refine ⟨⟨r0 + (i + 1 - r0) - 1, c0 + (j + 1 - c0) - 1, shade (finderDark (i + 1 - r0) (j + 1 - c0))⟩, ?_, ?_, ?_⟩
    · simp only [finderWrites, List.mem_flatMap, List.mem_filterMap, List.mem_range]
      exact ⟨i + 1 - r0, by omega, j + 1 - c0, by omega, if_pos (by omega)⟩
    · dsimp only
      omega
    · dsimp only
      omega

/-- The finder in offsets from a corner of the symbol, which is symmetric. -/
theorem finderDark_eq_finderShape : ∀ r ≤ 7, ∀ c ≤ 7, finderDark (r + 1) (c + 1) = finderShape r c ∧
    finderDark (r + 1) (7 - c) = finderShape r c ∧ finderDark (7 - r) (c + 1) = finderShape r c := by decide

/-- The corners with finders and separators. -/
def FinderZone (n i j : Nat) : Prop :=
  (i ≤ 7 ∧ j ≤ 7) ∨ (i ≤ 7 ∧ n ≤ j + 8 ∧ j < n) ∨ (n ≤ i + 8 ∧ i < n ∧ j ≤ 7)

/-- The grid after step 2 of R281. -/
def finderGrid (n : Nat) : Grid := placeFinders n (Grid.blank n)

section
variable {n : Nat}

theorem Grid.cell_blank (n i j : Nat) : (Grid.blank n).cell i j = .unset := by
  by_cases h : i < n
  · simp only [Grid.cell, Grid.blank, List.getD, List.getElem?_replicate, h, if_true, Option.getD_some]
    split_ifs <;> rfl
  · exact Grid.cell_of_ge (Grid.square_blank n) (.inl (Nat.not_lt.mp h))

theorem square_finderGrid (n : Nat) : Grid.Square n (finderGrid n) := Grid.square_putAll _ (Grid.square_blank n)

theorem finderGrid_eq (n : Nat) : finderGrid n = (((Grid.blank n).putAll (finderWrites n 0 0)).putAll
    (finderWrites n 0 (n - 7))).putAll (finderWrites n (n - 7) 0) := by
  rw [finderGrid, placeFinders, Grid.putAll_append, Grid.putAll_append]

theorem finderRegion_inside {r0 c0 i j : Nat} (h : FinderRegion n r0 c0 i j) : i < n ∧ j < n := ⟨h.1, h.2.1⟩

/-- The last of the three finders that has a cell gives its colour; no two have one in common. -/
theorem cell_finderGrid (hn : 21 ≤ n) {r c : Nat} (hr : r ≤ 7) (hc : c ≤ 7) :
    (finderGrid n).cell r c = shade (finderShape r c) ∧
    (finderGrid n).cell r (n - 1 - c) = shade (finderShape r c) ∧
    (finderGrid n).cell (n - 1 - r) c = shade (finderShape r c) := by
  have hsq := Grid.square_blank n
  have hsq1 := Grid.square_putAll (finderWrites n 0 0) hsq
  have hsq2 := Grid.square_putAll (finderWrites n 0 (n - 7)) hsq1
  have hpaint := finderWrites_paints n
  obtain ⟨htl, htr, hbl⟩ := finderDark_eq_finderShape r hr c hc
  rw [finderGrid_eq]
  refine ⟨?_, ?_, ?_⟩
  · rw [(hpaint _ _).cell_of_not_region (fun _ _ => finderRegion_inside) hsq2 (by unfold FinderRegion; omega),
      (hpaint _ _).cell_of_not_region (fun _ _ => finderRegion_inside) hsq1 (by unfold FinderRegion; omega),
      (hpaint _ _).cell_of_region (fun _ _ => finderRegion_inside) hsq (by unfold FinderRegion; omega)]
    exact congrArg shade htl
  · rw [(hpaint _ _).cell_of_not_region (fun _ _ => finderRegion_inside) hsq2 (by unfold FinderRegion; omega),
      (hpaint _ _).cell_of_region (fun _ _ => finderRegion_inside) hsq1 (by unfold FinderRegion; omega),
      show n - 1 - c + 1 - (n - 7) = 7 - c by omega]
    exact congrArg shade htr
  · rw [(hpaint _ _).cell_of_region (fun _ _ => finderRegion_inside) hsq2 (by unfold FinderRegion; omega),
      show n - 1 - r + 1 - (n - 7) = 7 - r by omega]
    exact congrArg shade hbl

theorem cell_finderGrid_of_not_zone (hn : 21 ≤ n) {i j : Nat} (h : ¬ FinderZone n i j) :
    (finderGrid n).cell i j = .unset := by
  have hsq := Grid.square_blank n
  have hsq1 := Grid.square_putAll (finderWrites n 0 0) hsq
  have hsq2 := Grid.square_putAll (finderWrites n 0 (n - 7)) hsq1
  have hpaint := finderWrites_paints n
  unfold FinderZone at h
  rw [finderGrid_eq,
    (hpaint _ _).cell_of_not_region (fun _ _ => finderRegion_inside) hsq2 (by unfold FinderRegion; omega),
    (hpaint _ _).cell_of_not_region (fun _ _ => finderRegion_inside) hsq1 (by unfold FinderRegion; omega),
    (hpaint _ _).cell_of_not_region (fun _ _ => finderRegion_inside) hsq (by unfold FinderRegion; omega),
    Grid.cell_blank]

theorem cell_finderGrid_ne_unset (hn : 21 ≤ n) {i j : Nat} (h : FinderZone n i j) :
    (finderGrid n).cell i j ≠ .unset := by
  rcases h with ⟨hi, hj⟩ | ⟨hi, hj, hjn⟩ | ⟨hi, hin, hj⟩
  · rw [(cell_finderGrid hn hi hj).1]
    exact shade_ne_unset _
  · have h := (cell_finderGrid hn hi (show n - 1 - j ≤ 7 by omega)).2.1
    rw [show n - 1 - (n - 1 - j) = j by omega] at h
    rw [h]
    exact shade_ne_unset _
  · have h := (cell_finderGrid hn (show n - 1 - i ≤ 7 by omega) hj).2.2
    rw [show n - 1 - (n - 1 - i) = i by omega] at h
    rw [h]
    exact shade_ne_unset _

end

/-! ## Alignment patterns (R284, 41_tables.md R187) -/

/-- What the table of R187 gives: even positions from 6 to n − 7, the ends at least 10 from the others, all at least 5 apart. -/
theorem alignpos_spec : ∀ v ≤ 40, ∀ a ∈ alignpos v, 6 ≤ a ∧ a ≤ 4 * v + 10 ∧ (a = 6 ∨ 16 ≤ a) ∧
    (a = 4 * v + 10 ∨ a + 10 ≤ 4 * v + 10) ∧ a % 2 = 0 ∧ ∀ b ∈ alignpos v, a = b ∨ a + 5 ≤ b ∨ b + 5 ≤ a := by
  decide +kernel

theorem nodup_alignpos : ∀ v ≤ 40, (alignpos v).Nodup := by decide +kernel

theorem alignpos_ends : ∀ v ≤ 40, 2 ≤ v → (alignpos v).head? = some 6 ∧ (alignpos v).getLast? = some (4 * v + 10) := by
  decide +kernel

/-- The 5 × 5 cells around a centre. -/
def Covers (p : Nat × Nat) (i j : Nat) : Prop := p.1 ≤ i + 2 ∧ i ≤ p.1 + 2 ∧ p.2 ≤ j + 2 ∧ j ≤ p.2 + 2

theorem alignmentWrites_paints {a b : Nat} (ha : 2 ≤ a) (hb : 2 ≤ b) : Paints (alignmentWrites a b) (Covers (a, b))
    (fun i j => shade (alignmentShape (i + 2 - a) (j + 2 - b))) := by
  constructor
  · intro w hw
    simp only [alignmentWrites, List.mem_flatMap, List.mem_map, List.mem_range] at hw
    obtain ⟨dr, hdr, dc, hdc, rfl⟩ := hw
    refine ⟨by unfold Covers; dsimp only; omega, ?_⟩
    dsimp only
    rw [show a + dr - 2 + 2 - a = dr by omega, show b + dc - 2 + 2 - b = dc by omega]
    rfl
  · rintro i j ⟨h1, h2, h3, h4⟩
    dsimp only at h1 h2 h3 h4
    refine ⟨⟨a + (i + 2 - a) - 2, b + (j + 2 - b) - 2, shade (alignmentShape (i + 2 - a) (j + 2 - b))⟩, ?_, ?_, ?_⟩
    · simp only [alignmentWrites, List.mem_flatMap, List.mem_map, List.mem_range]
      exact ⟨i + 2 - a, by omega, j + 2 - b, by omega, rfl⟩
    · dsimp only
      omega
    · dsimp only
      omega

/-- A grid after the alignment patterns of the centres in `done`: the finders as they were, a pattern around every centre
that is not skipped, nothing else. -/
structure Aligned (v : Nat) (done : List (Nat × Nat)) (g : Grid) : Prop where
  square : Grid.Square (4 * v + 17) g
  finder : ∀ i j, FinderZone (4 * v + 17) i j → g.cell i j = (finderGrid (4 * v + 17)).cell i j
  pattern : ∀ p ∈ done, p ∉ skippedCentres v → ∀ i j, Covers p i j →
    g.cell i j = shade (alignmentShape (i + 2 - p.1) (j + 2 - p.2))
  rest : ∀ i j, ¬ FinderZone (4 * v + 17) i j → (∀ p ∈ done, p ∉ skippedCentres v → ¬ Covers p i j) →
    g.cell i j = .unset

section
variable {v : Nat} {done : List (Nat × Nat)} {g : Grid} {a b : Nat}

theorem aligned_nil (hv : 1 ≤ v) : Aligned v [] (finderGrid (4 * v + 17)) where
  square := square_finderGrid _
  finder := fun _ _ _ => rfl
  pattern := by simp
  rest := fun _ _ h _ => cell_finderGrid_of_not_zone (by omega) h

/-- A centre that is not skipped keeps clear of the finders. -/
theorem not_finderZone_of_covers (hv : v ≤ 40) (ha : a ∈ alignpos v) (hb : b ∈ alignpos v)
    (hskip : (a, b) ∉ skippedCentres v) {i j : Nat} (h : Covers (a, b) i j) :
    ¬ FinderZone (4 * v + 17) i j ∧ i < 4 * v + 17 ∧ j < 4 * v + 17 := by
  have hpa := alignpos_spec v hv a ha
  have hpb := alignpos_spec v hv b hb
  simp only [skippedCentres, List.mem_cons, Prod.mk.injEq, List.not_mem_nil, or_false] at hskip
  unfold Covers at h
  unfold FinderZone
  dsimp only at h
  omega

/-- Two centres have no cell in common. -/
theorem not_covers_of_ne (hv : v ≤ 40) (ha : a ∈ alignpos v) (hb : b ∈ alignpos v) {p : Nat × Nat}
    (hp1 : p.1 ∈ alignpos v) (hp2 : p.2 ∈ alignpos v) (hne : p ≠ (a, b)) {i j : Nat} (h : Covers (a, b) i j) :
    ¬ Covers p i j := by
  obtain ⟨-, -, -, -, -, hpa⟩ := alignpos_spec v hv a ha
  obtain ⟨-, -, -, -, -, hpb⟩ := alignpos_spec v hv b hb
  have hpa := hpa p.1 hp1
  have hpb := hpb p.2 hp2
  have hne' : ¬ (p.1 = a ∧ p.2 = b) := fun hh => hne (Prod.ext hh.1 hh.2)
  unfold Covers at *
  dsimp only at h
  omega

/-- A skipped centre lies on a finder, so its pattern is not written. -/
theorem placeAlignment_of_skipped (hv1 : 1 ≤ v) (h : Aligned v done g)
    (hskip : (a, b) ∈ skippedCentres v) : placeAlignment g (a, b) = g := by
  refine if_neg fun hall => ?_
  have hmem : (⟨a, b, shade true⟩ : CellWrite) ∈ alignmentWrites a b := by
    simp only [alignmentWrites, List.mem_flatMap, List.mem_map, List.mem_range]
    exact ⟨2, by decide, 2, by decide, by simp⟩
  have hunset := List.all_eq_true.mp hall _ hmem
  rw [beq_iff_eq] at hunset
  have hzone : FinderZone (4 * v + 17) a b := by
    simp only [skippedCentres, List.mem_cons, Prod.mk.injEq, List.not_mem_nil, or_false] at hskip
    unfold FinderZone
    omega
  dsimp only at hunset
  rw [h.finder a b hzone] at hunset
  exact cell_finderGrid_ne_unset (by omega) hzone hunset

/-- Any other centre gets its pattern. -/
theorem placeAlignment_of_not_skipped (hv : v ≤ 40) (h : Aligned v done g) (ha : a ∈ alignpos v) (hb : b ∈ alignpos v)
    (hskip : (a, b) ∉ skippedCentres v) (hdone : ∀ p ∈ done, p.1 ∈ alignpos v ∧ p.2 ∈ alignpos v ∧ p ≠ (a, b)) :
    placeAlignment g (a, b) = g.putAll (alignmentWrites a b) := by
  have h6 := (alignpos_spec v hv a ha).1
  have h6' := (alignpos_spec v hv b hb).1
  refine if_pos (List.all_eq_true.mpr fun w hw => ?_)
  obtain ⟨hcov, -⟩ := (alignmentWrites_paints (by omega) (by omega)).1 w hw
  rw [beq_iff_eq]
  exact h.rest _ _ (not_finderZone_of_covers hv ha hb hskip hcov).1 fun p hp _ =>
    not_covers_of_ne hv ha hb (hdone p hp).1 (hdone p hp).2.1 (hdone p hp).2.2 hcov

theorem aligned_concat (hv1 : 1 ≤ v) (hv : v ≤ 40) (h : Aligned v done g) (ha : a ∈ alignpos v) (hb : b ∈ alignpos v)
    (hdone : ∀ p ∈ done, p.1 ∈ alignpos v ∧ p.2 ∈ alignpos v ∧ p ≠ (a, b)) :
    Aligned v (done ++ [(a, b)]) (placeAlignment g (a, b)) := by
  have h6 := (alignpos_spec v hv a ha).1
  have h6' := (alignpos_spec v hv b hb).1
  by_cases hskip : (a, b) ∈ skippedCentres v
  · rw [placeAlignment_of_skipped hv1 h hskip]
    refine ⟨h.square, h.finder, fun p hp hns => ?_, fun i j hz hcov => h.rest i j hz fun p hp => hcov p (by simp [hp])⟩
    rcases List.mem_append.mp hp with hp | hp
    · exact h.pattern p hp hns
    · rw [List.mem_singleton.mp hp] at hns
      exact absurd hskip hns
  · have hpaint := alignmentWrites_paints (a := a) (b := b) (by omega) (by omega)
    have hin : ∀ i j, Covers (a, b) i j → i < 4 * v + 17 ∧ j < 4 * v + 17 :=
      fun i j hc => (not_finderZone_of_covers hv ha hb hskip hc).2
    rw [placeAlignment_of_not_skipped hv h ha hb hskip hdone]
    refine ⟨Grid.square_putAll _ h.square, fun i j hz => ?_, fun p hp hns i j hc => ?_, fun i j hz hcov => ?_⟩
    · rw [hpaint.cell_of_not_region hin h.square
        fun hc => (not_finderZone_of_covers hv ha hb hskip hc).1 hz, h.finder i j hz]
    · rcases List.mem_append.mp hp with hp | hp
      · rw [hpaint.cell_of_not_region hin h.square fun hc' =>
          not_covers_of_ne hv ha hb (hdone p hp).1 (hdone p hp).2.1 (hdone p hp).2.2 hc' hc]
        exact h.pattern p hp hns i j hc
      · obtain rfl := List.mem_singleton.mp hp
        exact hpaint.cell_of_region hin h.square hc
    · rw [hpaint.cell_of_not_region hin h.square (hcov (a, b) (by simp) hskip)]
      exact h.rest i j hz fun p hp => hcov p (by simp [hp])

theorem aligned_foldl (hv1 : 1 ≤ v) (hv : v ≤ 40) {todo : List (Nat × Nat)} (h : Aligned v done g)
    (hmem : ∀ p ∈ done ++ todo, p.1 ∈ alignpos v ∧ p.2 ∈ alignpos v) (hnodup : (done ++ todo).Nodup) :
    Aligned v (done ++ todo) (todo.foldl placeAlignment g) := by
  induction todo generalizing done g with
  | nil => simpa using h
  | cons p todo ih =>
    obtain ⟨a, b⟩ := p
    obtain ⟨ha, hb⟩ := hmem (a, b) (by simp)
    rw [List.append_cons] at hmem hnodup ⊢
    refine ih (aligned_concat hv1 hv h ha hb fun p hp => ?_) hmem hnodup
    obtain ⟨h1, h2⟩ := hmem p (by simp [hp])
    refine ⟨h1, h2, ?_⟩
    rintro rfl
    have := (List.nodup_append.mp (List.nodup_append.mp hnodup).1).2.2
    exact this (a, b) hp (a, b) (by simp) rfl

end

/-- All pairs of positions, in list order. -/
def alignCentres (v : Nat) : List (Nat × Nat) := (alignpos v).flatMap (fun r => (alignpos v).map (fun c => (r, c)))

theorem mem_alignCentres {v : Nat} {p : Nat × Nat} : p ∈ alignCentres v ↔ p.1 ∈ alignpos v ∧ p.2 ∈ alignpos v := by
  simp [alignCentres, List.mem_flatMap, Prod.ext_iff]

theorem nodup_alignCentres {v : Nat} (hv : v ≤ 40) : (alignCentres v).Nodup :=
  (nodup_alignpos v hv).product (nodup_alignpos v hv)

/-- The grid after step 3 of R281. -/
def alignedGrid (v : Nat) : Grid := placeAlignments v (finderGrid (4 * v + 17))

theorem aligned_alignedGrid {v : Nat} (hv1 : 1 ≤ v) (hv : v ≤ 40) : Aligned v (alignCentres v) (alignedGrid v) :=
  aligned_foldl hv1 hv (aligned_nil hv1) (fun _ => mem_alignCentres.mp) (nodup_alignCentres hv)

/-! ## Timing patterns (R285) -/

/-- A place of the timing lines, `k` the index along the line. -/
def TimingPlace (ks : List Nat) (i j : Nat) : Prop := (j = 6 ∧ i ∈ ks) ∨ (i = 6 ∧ j ∈ ks)

theorem cell_putIfUnset {n : Nat} {g : Grid} (hg : Grid.Square n g) {r c : Nat} (hr : r < n) (hc : c < n)
    (x : GridCell) (i j : Nat) :
    (g.putIfUnset r c x).cell i j = if i = r ∧ j = c ∧ g.cell i j = .unset then x else g.cell i j := by
  unfold Grid.putIfUnset
  by_cases h : g.cell r c = .unset
  · rw [if_pos (by simp [h]), Grid.cell_put hg hr hc]
    by_cases hij : i = r ∧ j = c
    · obtain ⟨rfl, rfl⟩ := hij
      simp [h]
    · rw [if_neg hij, if_neg fun hh => hij ⟨hh.1, hh.2.1⟩]
  · rw [if_neg (by simp [h]), if_neg]
    rintro ⟨rfl, rfl, h'⟩
    exact h h'

theorem square_putIfUnset {n : Nat} {g : Grid} (hg : Grid.Square n g) (r c : Nat) (x : GridCell) :
    Grid.Square n (g.putIfUnset r c x) := by
  unfold Grid.putIfUnset
  split
  · exact Grid.square_put hg _ _ _
  · exact hg

theorem square_placeTimingAt {n : Nat} {g : Grid} (hg : Grid.Square n g) (k : Nat) :
    Grid.Square n (placeTimingAt g k) := square_putIfUnset (square_putIfUnset hg _ _ _) _ _ _

theorem timingPlace_cons {k : Nat} {ks : List Nat} {i j : Nat} :
    TimingPlace (k :: ks) i j ↔ TimingPlace [k] i j ∨ TimingPlace ks i j := by
  unfold TimingPlace
  rw [List.mem_cons, List.mem_cons, List.mem_singleton, List.mem_singleton, and_or_left, and_or_left]
  exact or_or_or_comm

section
variable {n : Nat} {g : Grid} {k i j : Nat}

theorem cell_placeTimingAt_of_place (hg : Grid.Square n g) (hk : 7 ≤ k) (hkn : k < n) (hu : g.cell i j = .unset)
    (h : TimingPlace [k] i j) : (placeTimingAt g k).cell i j = shade ((if j = 6 then i else j) % 2 == 0) := by
  rw [placeTimingAt, cell_putIfUnset (square_putIfUnset hg _ _ _) (by omega) hkn,
    cell_putIfUnset hg hkn (by omega)]
  rcases h with ⟨rfl, hi⟩ | ⟨rfl, hj⟩
  · obtain rfl := List.mem_singleton.mp hi
    rw [if_neg (by omega), if_pos ⟨rfl, rfl, hu⟩, if_pos rfl]
  · obtain rfl := List.mem_singleton.mp hj
    rw [if_neg (by omega : ¬ (6 = j ∧ j = 6 ∧ g.cell 6 j = .unset)), if_pos ⟨rfl, rfl, hu⟩, if_neg (by omega)]

theorem cell_placeTimingAt_of_not (hg : Grid.Square n g) (hk : 7 ≤ k) (hkn : k < n)
    (h : g.cell i j ≠ .unset ∨ ¬ TimingPlace [k] i j) : (placeTimingAt g k).cell i j = g.cell i j := by
  rw [placeTimingAt, cell_putIfUnset (square_putIfUnset hg _ _ _) (by omega) hkn,
    cell_putIfUnset hg hkn (by omega)]
  rcases h with hset | hplace
  · rw [if_neg fun hh : i = k ∧ j = 6 ∧ g.cell i j = .unset => hset hh.2.2, if_neg fun hh => hset hh.2.2]
  · have h1 : ¬ (i = k ∧ j = 6) := fun hh => hplace (.inl ⟨hh.2, by simp [hh.1]⟩)
    have h2 : ¬ (i = 6 ∧ j = k) := fun hh => hplace (.inr ⟨hh.1, by simp [hh.2]⟩)
    rw [if_neg fun hh => h2 ⟨hh.1, hh.2.1⟩, if_neg fun hh => h1 ⟨hh.1, hh.2.1⟩]

/-- An UNSET place of the timing lines gets the colour of its index, every other cell stays. -/
theorem cell_foldl_placeTimingAt {ks : List Nat} (hks : ∀ k ∈ ks, 7 ≤ k ∧ k < n)
    (hg : Grid.Square n g) (i j : Nat) :
    Grid.Square n (ks.foldl placeTimingAt g) ∧
    (g.cell i j = .unset → TimingPlace ks i j →
      (ks.foldl placeTimingAt g).cell i j = shade ((if j = 6 then i else j) % 2 == 0)) ∧
    (g.cell i j ≠ .unset ∨ ¬ TimingPlace ks i j → (ks.foldl placeTimingAt g).cell i j = g.cell i j) := by
  induction ks generalizing g with
  | nil => exact ⟨hg, by simp [TimingPlace], fun _ => rfl⟩
  | cons k ks ih =>
    obtain ⟨⟨hk7, hkn⟩, hks⟩ := List.forall_mem_cons.mp hks
    obtain ⟨hsq, hset, hkeep⟩ := ih hks (square_placeTimingAt hg k)
    rw [List.foldl_cons, timingPlace_cons]
    refine ⟨hsq, fun hu ht => ?_, fun h => ?_⟩
    · by_cases hk : TimingPlace [k] i j
      · have hcell := cell_placeTimingAt_of_place hg hk7 hkn hu hk
        rw [hkeep (.inl (by rw [hcell]; exact shade_ne_unset _)), hcell]
      · exact hset ((cell_placeTimingAt_of_not hg hk7 hkn (.inr hk)).trans hu) (ht.resolve_left hk)
    · have hcell := cell_placeTimingAt_of_not hg hk7 hkn (h.imp_right fun hh ht => hh (.inl ht))
      rw [hkeep (hcell.symm ▸ h.imp_right fun hh ht => hh (.inr ht)), hcell]

end

/-- The indices of the timing patterns, 8 to n − 9. -/
def timingIndices (n : Nat) : List Nat := (List.range (n - 16)).map (· + 8)

theorem mem_timingIndices {n k : Nat} : k ∈ timingIndices n ↔ 8 ≤ k ∧ k + 8 < n := by
  simp only [timingIndices, List.mem_map, List.mem_range]
  constructor
  · rintro ⟨i, hi, rfl⟩
    omega
  · exact fun h => ⟨k - 8, by omega, by omega⟩

/-! ## The patterns of a version (R281, steps 1 to 4) -/

/-- The middle row and column of an alignment pattern alternate from DARK at its edge. -/
theorem alignmentShape_middle : ∀ d < 5, alignmentShape 2 d = (d % 2 == 0) ∧ alignmentShape d 2 = (d % 2 == 0) := by
  decide

section
variable {v : Nat} (hv1 : 1 ≤ v) (hv : v ≤ 40)
include hv1 hv

theorem patternGrid_cell (i j : Nat) :
    Grid.Square (4 * v + 17) (patternGrid v) ∧
    ((alignedGrid v).cell i j = .unset → TimingPlace (timingIndices (4 * v + 17)) i j →
      (patternGrid v).cell i j = shade ((if j = 6 then i else j) % 2 == 0)) ∧
    ((alignedGrid v).cell i j ≠ .unset ∨ ¬ TimingPlace (timingIndices (4 * v + 17)) i j →
      (patternGrid v).cell i j = (alignedGrid v).cell i j) :=
  cell_foldl_placeTimingAt (ks := timingIndices (4 * v + 17))
    (fun k hk => by
      have : 8 ≤ k ∧ k + 8 < 4 * v + 17 := mem_timingIndices.mp hk
      omega)
    (aligned_alignedGrid hv1 hv).square i j

theorem square_patternGrid : Grid.Square (4 * v + 17) (patternGrid v) := (patternGrid_cell hv1 hv 0 0).1

theorem patternGrid_finder {i j : Nat} (h : FinderZone (4 * v + 17) i j) :
    (patternGrid v).cell i j = (finderGrid (4 * v + 17)).cell i j := by
  have hcell := (aligned_alignedGrid hv1 hv).finder i j h
  rw [← hcell]
  refine (patternGrid_cell hv1 hv i j).2.2 (.inl ?_)
  rw [hcell]
  exact cell_finderGrid_ne_unset (by omega) h

theorem patternGrid_alignment {a b : Nat} (ha : a ∈ alignpos v) (hb : b ∈ alignpos v)
    (hskip : (a, b) ∉ skippedCentres v) {i j : Nat} (h : Covers (a, b) i j) :
    (patternGrid v).cell i j = shade (alignmentShape (i + 2 - a) (j + 2 - b)) := by
  have hcell := (aligned_alignedGrid hv1 hv).pattern (a, b) (mem_alignCentres.mpr ⟨ha, hb⟩) hskip i j h
  rw [← hcell]
  refine (patternGrid_cell hv1 hv i j).2.2 (.inl ?_)
  rw [hcell]
  exact shade_ne_unset _

/-- The timing lines alternate also where an alignment pattern crosses them: its positions are even. -/
theorem patternGrid_timing {i j : Nat} (h : TimingPlace (timingIndices (4 * v + 17)) i j) :
    (patternGrid v).cell i j = shade ((if j = 6 then i else j) % 2 == 0) := by
  have hplace := h
  unfold TimingPlace at hplace
  rw [mem_timingIndices, mem_timingIndices] at hplace
  by_cases hcov : ∃ p ∈ alignCentres v, p ∉ skippedCentres v ∧ Covers p i j
  · obtain ⟨⟨a, b⟩, hp, hskip, hc⟩ := hcov
    obtain ⟨ha, hb⟩ := mem_alignCentres.mp hp
    obtain ⟨ha6, -, ha11, -, haeven, -⟩ := alignpos_spec v hv a ha
    obtain ⟨hb6, -, hb11, -, hbeven, -⟩ := alignpos_spec v hv b hb
    rw [patternGrid_alignment hv1 hv ha hb hskip hc]
    unfold Covers at hc
    dsimp only at hc ha6 ha11 haeven hb6 hb11 hbeven
    congr 1
    rcases hplace with ⟨rfl, hi⟩ | ⟨rfl, hj⟩
    · rw [if_pos rfl, show 6 + 2 - b = 2 by omega, (alignmentShape_middle _ (by omega)).2]
      congr 1
      omega
    · rw [if_neg (by omega), show 6 + 2 - a = 2 by omega, (alignmentShape_middle _ (by omega)).1]
      congr 1
      omega
  · refine (patternGrid_cell hv1 hv i j).2.1 ((aligned_alignedGrid hv1 hv).rest i j ?_ ?_) h
    · unfold FinderZone
      omega
    · exact fun p hp hskip hc => hcov ⟨p, hp, hskip, hc⟩

theorem patternGrid_rest {i j : Nat} (hz : ¬ FinderZone (4 * v + 17) i j)
    (ht : ¬ TimingPlace (timingIndices (4 * v + 17)) i j)
    (ha : ∀ a ∈ alignpos v, ∀ b ∈ alignpos v, (a, b) ∉ skippedCentres v → ¬ Covers (a, b) i j) :
    (patternGrid v).cell i j = .unset := by
  rw [(patternGrid_cell hv1 hv i j).2.2 (.inr ht)]
  refine (aligned_alignedGrid hv1 hv).rest i j hz fun p hp => ?_
  obtain ⟨h1, h2⟩ := mem_alignCentres.mp hp
  exact ha p.1 h1 p.2 h2

end

end Sys2Proof.Machine
end

section
/-! SUPPORT. Format and version information (44_matrix.md R286 to R290), and which cells the patterns set (R298 (b)). -/

namespace Sys2Proof.Machine

/-! ## Format cells (R287, R288) -/

/-- The cells of the two format copies and the dark module. -/
def FormatZone (n i j : Nat) : Prop :=
  (j = 8 ∧ i < n ∧ i ≠ 6 ∧ (i ≤ 8 ∨ n ≤ i + 8)) ∨ (i = 8 ∧ j < n ∧ j ≠ 6 ∧ (j ≤ 8 ∨ n ≤ j + 8))

theorem infoCell_ne_unset (test : Bool) (word i : Nat) : infoCell test word i ≠ .unset := shade_ne_unset _

section
variable {n i j : Nat}

theorem formatRowA_inj (hn : 21 ≤ n) (h : formatRowA n i = formatRowA n j) : i = j := by
  unfold formatRowA at h
  split_ifs at h <;> omega

theorem formatColB_inj (hn : 21 ≤ n) (hi : i < 15) (hj : j < 15) (h : formatColB n i = formatColB n j) : i = j := by
  unfold formatColB at h
  split_ifs at h <;> omega

theorem formatRowA_bounds (hn : 21 ≤ n) (hi : i < 15) :
    formatRowA n i < n ∧ formatRowA n i ≠ 6 ∧ (formatRowA n i ≤ 8 ∨ n ≤ formatRowA n i + 7) := by
  unfold formatRowA
  split_ifs <;> omega

theorem formatColB_bounds (hn : 21 ≤ n) (hi : i < 15) :
    formatColB n i < n ∧ formatColB n i ≠ 6 ∧ (formatColB n i ≤ 7 ∨ n ≤ formatColB n i + 8) := by
  unfold formatColB
  split_ifs <;> omega

theorem exists_formatRowA (hn : 21 ≤ n) (hi : i < n) (h6 : i ≠ 6) (h : i ≤ 8 ∨ n ≤ i + 7) :
    ∃ k < 15, formatRowA n k = i := by
  refine ⟨if i < 6 then i else if i ≤ 8 then i - 1 else i + 15 - n, ?_⟩
  unfold formatRowA
  split_ifs <;> omega

theorem exists_formatColB (hj : j < n) (h6 : j ≠ 6) (h : j ≤ 7 ∨ n ≤ j + 8) : ∃ k < 15, formatColB n k = j := by
  refine ⟨if n ≤ j + 8 then n - 1 - j else if j = 7 then 8 else 14 - j, ?_⟩
  unfold formatColB
  split_ifs <;> omega

end

section
variable {n : Nat} {test : Bool} {word : Nat}

theorem mem_formatWrites {w : CellWrite} : w ∈ formatWrites n test word ↔
    (∃ i < 15, w = ⟨formatRowA n i, 8, infoCell test word i⟩) ∨
    (∃ i < 15, w = ⟨8, formatColB n i, infoCell test word i⟩) ∨ w = ⟨n - 8, 8, shade (!test)⟩ := by
  simp only [formatWrites, List.mem_append, List.mem_map, List.mem_range, List.mem_singleton, or_assoc,
    @eq_comm _ _ w]

theorem formatZone_of_mem (hn : 21 ≤ n) {w : CellWrite} (hw : w ∈ formatWrites n test word) :
    FormatZone n w.row w.col := by
  unfold FormatZone
  rcases mem_formatWrites.mp hw with ⟨i, hi, rfl⟩ | ⟨i, hi, rfl⟩ | rfl
  · obtain ⟨h1, h2, h3⟩ := formatRowA_bounds hn hi
    dsimp only
    omega
  · obtain ⟨h1, h2, h3⟩ := formatColB_bounds hn hi
    dsimp only
    omega
  · dsimp only
    omega

theorem formatWrites_inside (hn : 21 ≤ n) : Inside n (formatWrites n test word) := by
  intro w hw
  have := formatZone_of_mem hn hw
  unfold FormatZone at this
  omega

/-- No place is written twice. -/
theorem formatWrites_value_eq (hn : 21 ≤ n) {u w : CellWrite} (hu : u ∈ formatWrites n test word)
    (hw : w ∈ formatWrites n test word) (hr : u.row = w.row) (hc : u.col = w.col) : u.value = w.value := by
  rcases mem_formatWrites.mp hu with ⟨i, hi, rfl⟩ | ⟨i, hi, rfl⟩ | rfl <;>
    rcases mem_formatWrites.mp hw with ⟨k, hk, rfl⟩ | ⟨k, hk, rfl⟩ | rfl <;> dsimp only at hr hc ⊢
  · rw [formatRowA_inj hn hr]
  · obtain ⟨-, -, h⟩ := formatColB_bounds hn hk
    omega
  · obtain ⟨-, -, h⟩ := formatRowA_bounds hn hi
    omega
  · obtain ⟨-, -, h⟩ := formatColB_bounds hn hi
    omega
  · rw [formatColB_inj hn hi hk hc]
  · omega
  · obtain ⟨-, -, h⟩ := formatRowA_bounds hn hk
    omega
  · omega

theorem Grid.cell_putAll_formatWrites {g : Grid} (hg : Grid.Square n g) (hn : 21 ≤ n) {w : CellWrite}
    (hw : w ∈ formatWrites n test word) : (g.putAll (formatWrites n test word)).cell w.row w.col = w.value :=
  Grid.cell_putAll_of_mem hg (formatWrites_inside hn) hw fun _ hu => formatWrites_value_eq hn hu hw

/-- Every cell of the zone is written. -/
theorem exists_formatWrite (hn : 21 ≤ n) {i j : Nat} (h : FormatZone n i j) :
    ∃ w ∈ formatWrites n test word, w.row = i ∧ w.col = j ∧ w.value ≠ .unset := by
  have hinfo := infoCell_ne_unset test word
  by_cases hdark : i = n - 8 ∧ j = 8
  · obtain ⟨rfl, rfl⟩ := hdark
    exact ⟨_, mem_formatWrites.mpr (.inr (.inr rfl)), rfl, rfl, shade_ne_unset _⟩
  · rcases h with ⟨rfl, hi, h6, hplace⟩ | ⟨rfl, hj, h6, hplace⟩
    · obtain ⟨k, hk, rfl⟩ := exists_formatRowA hn hi h6 (by omega)
      exact ⟨_, mem_formatWrites.mpr (.inl ⟨k, hk, rfl⟩), rfl, rfl, hinfo k⟩
    · by_cases h8 : j = 8
      · subst h8
        exact ⟨_, mem_formatWrites.mpr (.inl ⟨7, by decide, rfl⟩), rfl, rfl, hinfo 7⟩
      · obtain ⟨k, hk, rfl⟩ := exists_formatColB hj h6 (by omega)
        exact ⟨_, mem_formatWrites.mpr (.inr (.inl ⟨k, hk, rfl⟩)), rfl, rfl, hinfo k⟩

end

/-! ## Version cells (R289) -/

/-- The cells of the two version blocks. -/
def VersionBlocks (n i j : Nat) : Prop :=
  (i ≤ 5 ∧ n ≤ j + 11 ∧ j + 9 ≤ n) ∨ (j ≤ 5 ∧ n ≤ i + 11 ∧ i + 9 ≤ n)

/-- The bit of the version word that stands in a cell of the version blocks. -/
def versionBit (n i j : Nat) : Nat := if i ≤ 5 then 3 * i + (j + 11 - n) else 3 * j + (i + 11 - n)

theorem versionWrites_paints {n : Nat} (hn : 21 ≤ n) (test : Bool) (word : Nat) :
    Paints (versionWrites n test word) (VersionBlocks n) (fun i j => infoCell test word (versionBit n i j)) := by
  constructor
  · intro w hw
    simp only [versionWrites, List.mem_flatMap, List.mem_range, List.mem_cons, List.not_mem_nil, or_false] at hw
    obtain ⟨i, hi, rfl | rfl⟩ := hw
    · refine ⟨by unfold VersionBlocks; dsimp only; omega, ?_⟩
      dsimp only
      rw [versionBit, if_pos (by omega), show 3 * (i / 3) + (n - 11 + i % 3 + 11 - n) = i by omega]
    · refine ⟨by unfold VersionBlocks; dsimp only; omega, ?_⟩
      dsimp only
      rw [versionBit, if_neg (by omega), show 3 * (i / 3) + (n - 11 + i % 3 + 11 - n) = i by omega]
  · intro i j h
    simp only [versionWrites, List.mem_flatMap, List.mem_range, List.mem_cons, List.not_mem_nil, or_false]
    rcases h with ⟨hi, hj, hj'⟩ | ⟨hj, hi, hi'⟩
    · exact ⟨_, ⟨3 * i + (j + 11 - n), by omega, .inl rfl⟩, by dsimp only; omega, by dsimp only; omega⟩
    · exact ⟨_, ⟨3 * j + (i + 11 - n), by omega, .inr rfl⟩, by dsimp only; omega, by dsimp only; omega⟩

theorem versionBlocks_inside {n : Nat} (i j : Nat) (h : VersionBlocks n i j) : i < n ∧ j < n := by
  unfold VersionBlocks at h
  omega

/-! ## The cells before data placement (R281, steps 1 to 6) -/

section
variable {v : Nat} (hv1 : 1 ≤ v) (hv : v ≤ 40) (eb : BitVec 2) (m : Nat) (test : Bool)
include hv1 hv

/-- The version writes leave every cell outside their blocks. -/
theorem structuralGrid_of_not_version {i j : Nat} (h : 7 ≤ v → ¬ VersionBlocks (4 * v + 17) i j) :
    (structuralGrid v eb m test).cell i j = ((patternGrid v).putAll
      (formatWrites (4 * v + 17) test (fmtword ((eb.toNat <<< 3) ||| m)))).cell i j := by
  unfold structuralGrid
  dsimp only
  split_ifs with h7
  · exact (versionWrites_paints (n := 4 * v + 17) (by omega) test _).cell_of_not_region versionBlocks_inside
      (Grid.square_putAll _ (square_patternGrid hv1 hv)) (h h7)
  · rfl

theorem structuralGrid_of_not_info {i j : Nat} (hf : ¬ FormatZone (4 * v + 17) i j)
    (h : 7 ≤ v → ¬ VersionBlocks (4 * v + 17) i j) : (structuralGrid v eb m test).cell i j = (patternGrid v).cell i j := by
  rw [structuralGrid_of_not_version hv1 hv eb m test h]
  refine Grid.cell_putAll_of_forall_ne (square_patternGrid hv1 hv) (formatWrites_inside (by omega)) fun w hw hh => hf ?_
  have := formatZone_of_mem (by omega) hw
  rwa [hh.1, hh.2] at this

theorem structuralGrid_format {w : CellWrite}
    (hw : w ∈ formatWrites (4 * v + 17) test (fmtword ((eb.toNat <<< 3) ||| m))) :
    (structuralGrid v eb m test).cell w.row w.col = w.value := by
  have hzone := formatZone_of_mem (by omega) hw
  rw [structuralGrid_of_not_version hv1 hv eb m test
    fun h7 => by unfold VersionBlocks; unfold FormatZone at hzone; omega]
  exact Grid.cell_putAll_formatWrites (square_patternGrid hv1 hv) (by omega) hw

theorem structuralGrid_version (h7 : 7 ≤ v) {i j : Nat} (h : VersionBlocks (4 * v + 17) i j) :
    (structuralGrid v eb m test).cell i j = infoCell test (verword v) (versionBit (4 * v + 17) i j) := by
  unfold structuralGrid
  dsimp only
  rw [if_pos h7]
  exact (versionWrites_paints (n := 4 * v + 17) (by omega) test _).cell_of_region versionBlocks_inside
    (Grid.square_putAll _ (square_patternGrid hv1 hv)) h

theorem square_structuralGrid : Grid.Square (4 * v + 17) (structuralGrid v eb m test) := by
  have hsq := Grid.square_putAll (formatWrites (4 * v + 17) test (fmtword ((eb.toNat <<< 3) ||| m)))
    (square_patternGrid hv1 hv)
  unfold structuralGrid
  dsimp only
  split_ifs
  · exact Grid.square_putAll _ hsq
  · exact hsq

theorem structuralGrid_finder {i j : Nat} (h : FinderZone (4 * v + 17) i j) :
    (structuralGrid v eb m test).cell i j = (finderGrid (4 * v + 17)).cell i j := by
  rw [structuralGrid_of_not_info hv1 hv eb m test, patternGrid_finder hv1 hv h]
  · unfold FormatZone
    unfold FinderZone at h
    omega
  · unfold VersionBlocks
    unfold FinderZone at h
    omega

theorem structuralGrid_timing {i j : Nat} (h : TimingPlace (timingIndices (4 * v + 17)) i j) :
    (structuralGrid v eb m test).cell i j = shade ((if j = 6 then i else j) % 2 == 0) := by
  have hplace := h
  unfold TimingPlace at hplace
  rw [mem_timingIndices, mem_timingIndices] at hplace
  rw [structuralGrid_of_not_info hv1 hv eb m test, patternGrid_timing hv1 hv h]
  · unfold FormatZone
    omega
  · unfold VersionBlocks
    omega

/-- The alignment patterns keep clear of the information cells too. -/
theorem structuralGrid_alignment {a b : Nat} (ha : a ∈ alignpos v) (hb : b ∈ alignpos v)
    (hskip : (a, b) ∉ skippedCentres v) {i j : Nat} (h : Covers (a, b) i j) :
    (structuralGrid v eb m test).cell i j = shade (alignmentShape (i + 2 - a) (j + 2 - b)) := by
  obtain ⟨ha6, ha40, ha11, halast, -⟩ := alignpos_spec v hv a ha
  obtain ⟨hb6, hb40, hb11, hblast, -⟩ := alignpos_spec v hv b hb
  have hcov := h
  simp only [skippedCentres, List.mem_cons, Prod.mk.injEq, List.not_mem_nil, or_false] at hskip
  unfold Covers at hcov
  dsimp only at hcov
  rw [structuralGrid_of_not_info hv1 hv eb m test, patternGrid_alignment hv1 hv ha hb ?_ h]
  · simp only [skippedCentres, List.mem_cons, Prod.mk.injEq, List.not_mem_nil, or_false]
    exact hskip
  · unfold FormatZone
    omega
  · unfold VersionBlocks
    omega

/-- The cells the patterns set are the function cells (R298 (b)), whatever level, mask and test flag. -/
theorem structuralGrid_ne_unset_iff {i j : Nat} (hi : i < 4 * v + 17) (hj : j < 4 * v + 17) :
    (structuralGrid v eb m test).cell i j ≠ .unset ↔ FunctionCell v i j := by
  constructor
  · intro h
    by_contra hfn
    unfold FunctionCell at hfn
    simp only [not_or] at hfn
    obtain ⟨htl, htr, hbl, hrow, hcol, hver, hver', halign⟩ := hfn
    refine h ?_
    rw [structuralGrid_of_not_info hv1 hv eb m test (by unfold FormatZone; omega) (by unfold VersionBlocks; omega)]
    refine patternGrid_rest hv1 hv (by unfold FinderZone; omega) (by unfold TimingPlace; tauto) ?_
    exact fun a ha b hb hskip hc => halign ⟨a, ha, b, hb, hskip, hc⟩
  · intro h
    by_cases hformat : FormatZone (4 * v + 17) i j
    · obtain ⟨w, hw, rfl, rfl, hset⟩ := exists_formatWrite (by omega) hformat
      rwa [structuralGrid_format hv1 hv eb m test hw]
    by_cases hversion : 7 ≤ v ∧ VersionBlocks (4 * v + 17) i j
    · rw [structuralGrid_version hv1 hv eb m test hversion.1 hversion.2]
      exact infoCell_ne_unset _ _ _
    by_cases hfinder : FinderZone (4 * v + 17) i j
    · rw [structuralGrid_finder hv1 hv eb m test hfinder]
      exact cell_finderGrid_ne_unset (by omega) hfinder
    by_cases htiming : TimingPlace (timingIndices (4 * v + 17)) i j
    · rw [structuralGrid_timing hv1 hv eb m test htiming]
      exact shade_ne_unset _
    · unfold FormatZone at hformat
      unfold VersionBlocks at hversion
      unfold FinderZone at hfinder
      unfold TimingPlace at htiming
      rw [mem_timingIndices, mem_timingIndices] at htiming
      unfold FunctionCell at h
      have halign : ∃ a ∈ alignpos v, ∃ b ∈ alignpos v, (a, b) ∉ skippedCentres v ∧ Covers (a, b) i j := by
        rcases h with h | h | h | h | h | h | h | h
        on_goal 8 => exact h
        all_goals omega
      obtain ⟨a, ha, b, hb, hskip, hc⟩ := halign
      rw [structuralGrid_alignment hv1 hv eb m test ha hb hskip hc]
      exact shade_ne_unset _

end

end Sys2Proof.Machine
end

section
/-! SUPPORT. Data placement (44_matrix.md R291, R292): the order of the cells, and what each cell gets. -/

namespace Sys2Proof.Machine

/-! ## The order of the cells (R291) -/

/-- The right column of pair k from the right, column 6 skipped. -/
def pairColumn (n k : Nat) : Nat := if 2 * k + 7 < n then n - 1 - 2 * k else n - 2 - 2 * k

/-- Row j of pair k, counted in the direction of the pair. -/
def pairRow (n k j : Nat) : Nat := if k % 2 = 0 then n - 1 - j else j

/-- The cells of pair k in the order the placement visits them. -/
def pairCells (n k : Nat) : List (Nat × Nat) :=
  (List.range n).flatMap (fun j => [(pairRow n k j, pairColumn n k), (pairRow n k j, pairColumn n k - 1)])

theorem rightColumns_eq {v n : Nat} (hn : n = 4 * v + 17) :
    rightColumns n = (List.range ((n - 1) / 2)).map (pairColumn n) := by
  have hlen : (n - 1) / 2 = (n - 7) / 2 + 3 := by omega
  rw [rightColumns, hlen, List.range_add, List.map_append]
  congr 1
  · refine List.map_congr_left fun k hk => (if_pos ?_).symm
    have := List.mem_range.mp hk
    omega
  · have h0 : pairColumn n ((n - 7) / 2 + 0) = 5 := by rw [pairColumn, if_neg (by omega)]; omega
    have h1 : pairColumn n ((n - 7) / 2 + 1) = 3 := by rw [pairColumn, if_neg (by omega)]; omega
    have h2 : pairColumn n ((n - 7) / 2 + 2) = 1 := by rw [pairColumn, if_neg (by omega)]; omega
    simp only [List.range, List.range.loop, List.map_cons, List.map_nil, h0, h1, h2]

theorem rowsOfPair_eq (n k : Nat) : rowsOfPair n k = (List.range n).map (pairRow n k) := by
  unfold rowsOfPair
  split_ifs with hk
  · apply List.ext_getElem (by simp)
    intro j _ _
    simp [pairRow, hk]
  · exact (List.map_id _).symm.trans (List.map_congr_left fun j _ => (if_neg hk).symm)

theorem zipIdx_map_range {α : Type} (f : Nat → α) (n : Nat) :
    ((List.range n).map f).zipIdx = (List.range n).map (fun k => (f k, k)) := by
  apply List.ext_getElem (by simp)
  intro k _ _
  simp

theorem placementOrder_eq {v n : Nat} (hn : n = 4 * v + 17) :
    placementOrder n = (List.range ((n - 1) / 2)).flatMap (pairCells n) := by
  rw [placementOrder, rightColumns_eq hn, zipIdx_map_range, List.flatMap_map]
  refine List.flatMap_congr fun k _ => ?_
  rw [rowsOfPair_eq, List.flatMap_map]
  rfl

theorem length_pairCells (n k : Nat) : (pairCells n k).length = 2 * n := by
  simp [pairCells, List.length_flatMap, mul_comm]

theorem getElem?_pairCells {n k j h : Nat} (hj : j < n) (hh : h < 2) :
    (pairCells n k)[2 * j + h]? = some (pairRow n k j, pairColumn n k - h) := by
  have hcell := getElem?_flatMap_range (p := h)
    (fun j => [(pairRow n k j, pairColumn n k), (pairRow n k j, pairColumn n k - 1)]) hj hh
  have hsum : ((List.range j).map fun _ => 2).sum + h = 2 * j + h := by simp [mul_comm]
  rw [pairCells, ← hsum]
  refine hcell.trans ?_
  obtain rfl | rfl : h = 0 ∨ h = 1 := by omega
  · rfl
  · rfl

theorem getElem?_placementOrder {v n : Nat} (hn : n = 4 * v + 17) {k j h : Nat} (hk : k < (n - 1) / 2) (hj : j < n)
    (hh : h < 2) : (placementOrder n)[2 * (n * k + j) + h]? = some (pairRow n k j, pairColumn n k - h) := by
  have hcell := getElem?_flatMap_range (pairCells n) (p := 2 * j + h) hk (by rw [length_pairCells]; omega)
  simp only [length_pairCells, List.map_const', List.sum_replicate_nat, List.length_range] at hcell
  rw [placementOrder_eq hn, ← getElem?_pairCells hj hh, ← hcell]
  congr 1
  ring

theorem length_placementOrder {v n : Nat} (hn : n = 4 * v + 17) : (placementOrder n).length = n * (n - 1) := by
  have hhalf : n - 1 = 2 * ((n - 1) / 2) := by omega
  rw [placementOrder_eq hn, List.length_flatMap]
  simp only [length_pairCells, List.map_const', List.sum_replicate_nat, List.length_range]
  rw [hhalf]
  generalize (n - 1) / 2 = q
  rw [show 2 * q / 2 = q by omega]
  ring

theorem mem_pairCells {n k r c : Nat} :
    (r, c) ∈ pairCells n k ↔ r < n ∧ (c = pairColumn n k ∨ c = pairColumn n k - 1) := by
  simp only [pairCells, List.mem_flatMap, List.mem_range, List.mem_cons, Prod.mk.injEq, List.not_mem_nil, or_false,
    ← and_or_left]
  constructor
  · rintro ⟨j, hj, rfl, hc⟩
    exact ⟨by unfold pairRow; split_ifs <;> omega, hc⟩
  · rintro ⟨hr, hc⟩
    refine ⟨pairRow n k r, ?_, ?_, hc⟩
    · unfold pairRow
      split_ifs <;> omega
    · unfold pairRow
      split_ifs <;> omega

theorem nodup_pairCells {n k : Nat} (hcol : 1 ≤ pairColumn n k) : (pairCells n k).Nodup := by
  rw [pairCells, List.nodup_flatMap]
  constructor
  · intro j _
    simp only [List.nodup_cons, List.mem_singleton, Prod.mk.injEq, true_and, List.not_mem_nil, not_false_iff,
      List.nodup_nil, and_true]
    omega
  · refine List.nodup_range.pairwise_of_forall_ne fun i hi j hj hne => ?_
    rintro ⟨r, c⟩ hri hrj
    simp only [List.mem_cons, Prod.mk.injEq, List.not_mem_nil, or_false, ← and_or_left] at hri hrj
    have hrow : pairRow n k i = pairRow n k j := hri.1.symm.trans hrj.1
    have := List.mem_range.mp hi
    have := List.mem_range.mp hj
    unfold pairRow at hrow
    split_ifs at hrow <;> omega

/-- No cell is visited twice. -/
theorem nodup_placementOrder {v n : Nat} (hn : n = 4 * v + 17) : (placementOrder n).Nodup := by
  rw [placementOrder_eq hn, List.nodup_flatMap]
  constructor
  · intro k hk
    have := List.mem_range.mp hk
    refine nodup_pairCells ?_
    unfold pairColumn
    split_ifs <;> omega
  · refine List.nodup_range.pairwise_of_forall_ne fun i hi j hj hne => ?_
    rintro ⟨r, c⟩ hri hrj
    have hci := (mem_pairCells.mp hri).2
    have hcj := (mem_pairCells.mp hrj).2
    have := List.mem_range.mp hi
    have := List.mem_range.mp hj
    unfold pairColumn at hci hcj
    split_ifs at hci hcj <;> omega

/-- The placement visits every cell outside column 6. -/
theorem mem_placementOrder {v n : Nat} (hn : n = 4 * v + 17) {r c : Nat} :
    (r, c) ∈ placementOrder n ↔ r < n ∧ c < n ∧ c ≠ 6 := by
  simp only [placementOrder_eq hn, List.mem_flatMap, List.mem_range, mem_pairCells]
  constructor
  · rintro ⟨k, hk, hr, hc⟩
    unfold pairColumn at hc
    split_ifs at hc <;> omega
  · rintro ⟨hr, hc, h6⟩
    refine ⟨if 6 < c then (n - 1 - c) / 2 else (n - 2 - c) / 2, ?_, hr, ?_⟩
    · split_ifs <;> omega
    · unfold pairColumn
      split_ifs <;> omega

/-! ## What a visited cell gets (R291) -/

/-- The number of UNSET cells of a list of places: the stream bits they consume. -/
def freeCount (g : Grid) (order : List (Nat × Nat)) : Nat :=
  (order.filter (fun q => g.cell q.1 q.2 == .unset)).length

section
variable {n m : Nat} {g : Grid} {order : List (Nat × Nat)} {stream : List Bool} {i j : Nat}

theorem freeCount_cons_of_unset (h : g.cell i j = .unset) : freeCount g ((i, j) :: order) = freeCount g order + 1 := by
  simp [freeCount, h]

theorem freeCount_cons_of_set (h : g.cell i j ≠ .unset) : freeCount g ((i, j) :: order) = freeCount g order := by
  simp [freeCount, h]

theorem freeCount_put (hg : Grid.Square n g) {r c : Nat} (hr : r < n) (hc : c < n) (x : GridCell)
    (h : (r, c) ∉ order) : freeCount (g.put r c x) order = freeCount g order := by
  unfold freeCount
  congr 1
  refine List.filter_congr fun q hq => ?_
  rw [Grid.cell_put hg hr hc, if_neg]
  rintro ⟨hr, hc⟩
  exact h (hr ▸ hc ▸ hq)

theorem cell_placeData_of_not_mem (hg : Grid.Square n g) (hin : ∀ q ∈ order, q.1 < n ∧ q.2 < n)
    (h : g.cell i j ≠ .unset ∨ (i, j) ∉ order) : (placeData m order stream g).cell i j = g.cell i j := by
  induction order generalizing stream g with
  | nil => rfl
  | cons q rest ih =>
    obtain ⟨r, c⟩ := q
    obtain ⟨⟨hr, hc⟩, hin⟩ := List.forall_mem_cons.mp hin
    have hrest := h.imp_right fun hh hmem => hh (List.mem_cons_of_mem _ hmem)
    unfold placeData
    split_ifs with hu
    · have hcell : (g.put r c (shade (stream.headD false ^^ maskBit m r c))).cell i j = g.cell i j := by
        rw [Grid.cell_put hg hr hc, if_neg]
        rintro ⟨rfl, rfl⟩
        exact h.elim (· (beq_iff_eq.mp hu)) (· List.mem_cons_self)
      rw [ih (Grid.square_put hg _ _ _) hin (by rwa [hcell]), hcell]
    · exact ih hg hin hrest

/-- The UNSET cell at place p of the order gets the stream bit whose number is the count of UNSET cells before it. -/
theorem cell_placeData (hg : Grid.Square n g) (hin : ∀ q ∈ order, q.1 < n ∧ q.2 < n) (hnodup : order.Nodup) {p : Nat}
    (hp : order[p]? = some (i, j)) (hu : g.cell i j = .unset) : (placeData m order stream g).cell i j =
      shade (stream.getD (freeCount g (order.take p)) false ^^ maskBit m i j) := by
  induction order generalizing stream g p with
  | nil => simp at hp
  | cons q rest ih =>
    obtain ⟨r, c⟩ := q
    obtain ⟨⟨hr, hc⟩, hin⟩ := List.forall_mem_cons.mp hin
    obtain ⟨hq, hnodup⟩ := List.nodup_cons.mp hnodup
    have hsq := Grid.square_put hg r c (shade (stream.headD false ^^ maskBit m r c))
    unfold placeData
    cases p with
    | zero =>
      obtain ⟨rfl, rfl⟩ : r = i ∧ c = j := by simpa using hp
      rw [if_pos (by rw [hu]; rfl), cell_placeData_of_not_mem hsq hin (.inr hq), Grid.cell_put hg hr hc,
        if_pos ⟨rfl, rfl⟩]
      cases stream <;> rfl
    | succ p =>
      rw [List.getElem?_cons_succ] at hp
      have hne : ¬ (i = r ∧ j = c) := fun hh => hq (by rw [← hh.1, ← hh.2]; exact List.mem_of_getElem? hp)
      rw [List.take_succ_cons]
      split_ifs with hset
      · rw [ih hsq hin hnodup hp (by rw [Grid.cell_put hg hr hc, if_neg hne, hu]),
          freeCount_put hg hr hc _ fun hmem => hq (List.mem_of_mem_take hmem)]
        rw [freeCount_cons_of_unset (by simpa using hset)]
        congr 2
        cases stream <;> rfl
      · rw [ih hg hin hnodup hp hu]
        rw [freeCount_cons_of_set (by simpa using hset)]

end

/-! ## The stream (R292) -/

theorem codewordBits_cons (b : Byte) (cws : List Byte) : codewordBits (b :: cws) = bitsMsb b.toNat 8 ++ codewordBits cws :=
  rfl

theorem getD_codewordBits (cws : List Byte) (i : Nat) {b : Nat} (hb : b < 8) :
    (codewordBits cws).getD (8 * i + b) false = (cws.getD i 0#8).getLsbD (7 - b) := by
  induction cws generalizing i with
  | nil => simp [codewordBits]
  | cons d cws ih =>
    rw [codewordBits_cons]
    cases i with
    | zero =>
      rw [List.getD_append _ _ _ _ (by simp; omega), List.getD_eq_getElem _ _ (by simp; omega), getElem_bitsMsb]
      simp [BitVec.testBit_toNat]
    | succ i =>
      rw [List.getD_append_right _ _ _ _ (by simp; omega), List.getD_cons_succ, ← ih i, length_bitsMsb]
      congr 1
      omega

/-! ## The built grid (R281) -/

theorem placementOrder_inside (v : Nat) : ∀ q ∈ placementOrder (4 * v + 17), q.1 < 4 * v + 17 ∧ q.2 < 4 * v + 17 := by
  rintro ⟨r, c⟩ hq
  obtain ⟨hr, hc, -⟩ := (mem_placementOrder rfl).mp hq
  exact ⟨hr, hc⟩

section
variable {v : Nat} (hv1 : 1 ≤ v) (hv : v ≤ 40) (eb : BitVec 2) (cws : List Byte) (m : Nat) (test : Bool) {i j : Nat}
include hv1 hv

/-- Data placement leaves the cells the patterns set. -/
theorem buildGrid_of_set (h : (structuralGrid v eb m test).cell i j ≠ .unset) :
    (buildGrid v eb cws m test).cell i j = (structuralGrid v eb m test).cell i j :=
  cell_placeData_of_not_mem (square_structuralGrid hv1 hv eb m test) (placementOrder_inside v) (.inl h)

theorem buildGrid_of_unset {p : Nat} (hp : (placementOrder (4 * v + 17))[p]? = some (i, j))
    (h : (structuralGrid v eb m test).cell i j = .unset) :
    (buildGrid v eb cws m test).cell i j = shade ((codewordBits cws).getD
      (freeCount (structuralGrid v eb m test) ((placementOrder (4 * v + 17)).take p)) false ^^ maskBit m i j) :=
  cell_placeData (square_structuralGrid hv1 hv eb m test) (placementOrder_inside v) (nodup_placementOrder rfl) hp h

/-- Every UNSET cell of the patterns is visited: column 6 has none. -/
theorem exists_place_of_unset (hi : i < 4 * v + 17) (hj : j < 4 * v + 17)
    (h : (structuralGrid v eb m test).cell i j = .unset) : 
    ∃ p : Nat, (placementOrder (4 * v + 17))[p]? = some (i, j) := by
  have hfn := (structuralGrid_ne_unset_iff hv1 hv eb m test hi hj).not.mp (not_not.mpr h)
  have h6 : j ≠ 6 := fun h6 => hfn (.inr (.inr (.inr (.inr (.inl h6)))))
  exact List.getElem?_of_mem ((mem_placementOrder rfl).mpr ⟨hi, hj, h6⟩)

theorem square_buildGrid : Grid.Square (4 * v + 17) (buildGrid v eb cws m test) :=
  Grid.square_placeData _ _ _ (square_structuralGrid hv1 hv eb m test)

theorem buildGrid_ne_unset (hi : i < 4 * v + 17) (hj : j < 4 * v + 17) :
    (buildGrid v eb cws m test).cell i j ≠ .unset := by
  by_cases h : (structuralGrid v eb m test).cell i j = .unset
  · obtain ⟨p, hp⟩ := exists_place_of_unset hv1 hv eb m test hi hj h
    rw [buildGrid_of_unset hv1 hv eb cws m test hp h]
    exact shade_ne_unset _
  · rwa [buildGrid_of_set hv1 hv eb cws m test h]

/-- Which cells the patterns set does not depend on level, mask or test flag. -/
theorem structuralGrid_eq_unset_iff (eb' : BitVec 2) (m' : Nat) (test' : Bool) (hi : i < 4 * v + 17)
    (hj : j < 4 * v + 17) :
    (structuralGrid v eb m test).cell i j = .unset ↔ (structuralGrid v eb' m' test').cell i j = .unset :=
  not_iff_not.mp ((structuralGrid_ne_unset_iff hv1 hv eb m test hi hj).trans
    (structuralGrid_ne_unset_iff hv1 hv eb' m' test' hi hj).symm)

/-- So neither does the number of the stream bit a free cell gets. -/
theorem freeCount_structuralGrid (eb' : BitVec 2) (m' : Nat) (test' : Bool) (p : Nat) :
    freeCount (structuralGrid v eb m test) ((placementOrder (4 * v + 17)).take p) =
      freeCount (structuralGrid v eb' m' test') ((placementOrder (4 * v + 17)).take p) := by
  refine congrArg List.length (List.filter_congr fun q hq => ?_)
  obtain ⟨hr, hc⟩ := placementOrder_inside v q (List.mem_of_mem_take hq)
  rw [Bool.eq_iff_iff, beq_iff_eq, beq_iff_eq]
  exact structuralGrid_eq_unset_iff hv1 hv eb m test eb' m' test' hr hc

end

end Sys2Proof.Machine
end

section
/-! PROOFS. The matrix builder (44_matrix.md): O37 to O41. -/

namespace Sys2Proof.Machine

/-- The arguments BUILD answers with BadArgument (R280). -/
def State.BuildRefused (s : State) : Prop :=
  s.arg2.toNat < 1 ∨ 40 < s.arg2.toNat ∨ 1 < s.arg1.toNat ∨ 3706 < s.cwLen.toNat

section
variable {s : State}

theorem exec_build_of_refused (h : s.BuildRefused) : exec .build s = .next (s.complete .badArgument) :=
  if_pos (by simpa [State.BuildRefused, or_assoc] using h)

theorem exec_build_of_mask (h : ¬ s.BuildRefused) (hm : 7 < s.arg0.toNat) :
    exec .build s = .next (s.complete .invalidMaskPattern) :=
  (if_neg (by simpa [State.BuildRefused, or_assoc] using h)).trans (if_pos hm)

theorem exec_build_of_le (h : ¬ s.BuildRefused) (hm : s.arg0.toNat ≤ 7) : exec .build s = .next ((s.setGrid
    (buildGrid s.arg2.toNat s.cfgEcl s.codewords s.arg0.toNat (decide (s.arg1.toNat = 1))) .masked s.arg2.toNat
    s.arg0.toNat s.cfgEcl).complete .none) := by
  refine (if_neg (by simpa [State.BuildRefused, or_assoc] using h)).trans ((if_neg (Nat.not_lt.mpr hm)).trans ?_)
  rw [← beq_eq_decide]
  rfl

end

/-- Settles O37: one branch of the command per clause. -/
theorem buildCommand : Obligations.BuildCommand := by
  intro s
  refine ⟨exec_build_of_refused, fun hv1 hv ht hcw => ?_⟩
  have h : ¬ s.BuildRefused := by
    unfold State.BuildRefused
    omega
  exact ⟨exec_build_of_mask h, exec_build_of_le h⟩

/-- Settles O38: the patterns set the same cells in every grid, and placement is an induction over the visited cells. -/
theorem functionCellsSurviveDataPlacement : Obligations.FunctionCellsSurviveDataPlacement := by
  refine ⟨fun v eb eb' cws m m' test test' r c hv1 hv hr hc => ⟨buildGrid_of_set hv1 hv eb cws m test,
    structuralGrid_eq_unset_iff hv1 hv eb m test eb' m' test' hr hc, fun hu => ?_⟩,
    fun v n _ _ hn => ⟨length_placementOrder hn, fun k j h hk hj hh => getElem?_placementOrder hn hk hj hh⟩,
    fun v eb cws m test p r c hv1 hv hp hu => buildGrid_of_unset hv1 hv eb cws m test hp hu,
    fun cws i b hb => getD_codewordBits cws i hb⟩
  obtain ⟨p, hp⟩ := exists_place_of_unset hv1 hv eb m test hr hc hu
  rw [buildGrid_of_unset hv1 hv eb cws m test hp hu, buildGrid_of_unset hv1 hv eb cws m' test hp
    ((structuralGrid_eq_unset_iff hv1 hv eb m test eb m' test hr hc).mp hu),
    freeCount_structuralGrid hv1 hv eb m test eb m' test p, shade_inj, Bool.xor_right_inj]

theorem formatPlaceA_eq {n : Nat} (hn : 21 ≤ n) {i : Nat} (hi : i < 15) : formatPlaceA n i = (formatRowA n i, 8) := by
  unfold formatPlaceA formatRowA
  split_ifs <;> simp <;> omega

theorem formatPlaceB_eq (n : Nat) {i : Nat} (hi : i < 15) : formatPlaceB n i = (8, formatColB n i) := by
  unfold formatPlaceB formatColB
  split_ifs <;> simp <;> omega

/-- The information cells are set before data placement, so the built grid holds them. -/
theorem buildGrid_format {v : Nat} (hv1 : 1 ≤ v) (hv : v ≤ 40) (eb : BitVec 2) (cws : List Byte) (m : Nat) (test : Bool)
    {w : CellWrite} (hw : w ∈ formatWrites (4 * v + 17) test (fmtword ((eb.toNat <<< 3) ||| m)))
    (hset : w.value ≠ .unset) : (buildGrid v eb cws m test).cell w.row w.col = w.value := by
  have hcell := structuralGrid_format hv1 hv eb m test hw
  rw [buildGrid_of_set hv1 hv eb cws m test (by rwa [hcell]), hcell]

theorem buildGrid_version {v : Nat} (hv1 : 1 ≤ v) (hv : v ≤ 40) (eb : BitVec 2) (cws : List Byte) (m : Nat) (test : Bool)
    (h7 : 7 ≤ v) {i j : Nat} (h : VersionBlocks (4 * v + 17) i j) :
    (buildGrid v eb cws m test).cell i j = infoCell test (verword v) (versionBit (4 * v + 17) i j) := by
  have hcell := structuralGrid_version hv1 hv eb m test h7 h
  rw [buildGrid_of_set hv1 hv eb cws m test (by rw [hcell]; exact infoCell_ne_unset _ _ _), hcell]

/-- Settles O39: every place is written once, by the writes of R287 to R289. -/
theorem formatAndVersionCells : Obligations.FormatAndVersionCells := by
  intro v eb cws m test hv1 hv
  refine ⟨fun i hi => ?_, ?_, fun h7 i hi => ⟨?_, ?_⟩⟩
  · rw [formatPlaceA_eq (by omega) hi, formatPlaceB_eq _ hi]
    exact ⟨buildGrid_format hv1 hv eb cws m test (mem_formatWrites.mpr (.inl ⟨i, hi, rfl⟩)) (infoCell_ne_unset _ _ _),
      buildGrid_format hv1 hv eb cws m test (mem_formatWrites.mpr (.inr (.inl ⟨i, hi, rfl⟩))) (infoCell_ne_unset _ _ _)⟩
  · exact buildGrid_format hv1 hv eb cws m test (mem_formatWrites.mpr (.inr (.inr rfl))) (shade_ne_unset _)
  · rw [buildGrid_version hv1 hv eb cws m test h7 (.inl (by omega)), infoCell, versionBit, if_pos (by omega)]
    congr 3
    omega
  · rw [buildGrid_version hv1 hv eb cws m test h7 (.inr (by omega)), infoCell, versionBit, if_neg (by omega)]
    congr 3
    omega

/-- Settles O40: the cells the patterns leave are all visited. -/
theorem builtGridIsResolved : Obligations.BuiltGridIsResolved := by
  intro v eb cws m test hv1 hv
  obtain ⟨hrows, hcols⟩ := square_buildGrid hv1 hv eb cws m test
  refine ⟨hrows, fun r hr => ⟨?_, fun c hc => buildGrid_ne_unset hv1 hv eb cws m test hr hc⟩⟩
  rw [List.getD_eq_getElem _ _ (by omega)]
  exact hcols _ (List.getElem_mem _)

/-- Settles O41: no two patterns have a cell in common, but for timing cells inside an alignment pattern, where the
colours agree. -/
theorem findersAreIdenticalInEveryGrid : Obligations.FindersAreIdenticalInEveryGrid := by
  rintro v eb cws m test g hv1 hv rfl
  have hset : ∀ {i j : Nat} {b : Bool}, (structuralGrid v eb m test).cell i j = shade b →
      (buildGrid v eb cws m test).cell i j = shade b := fun hcell => by
    rw [buildGrid_of_set hv1 hv eb cws m test (by rw [hcell]; exact shade_ne_unset _), hcell]
  refine ⟨fun r c hr hc => ?_, fun k hk hk' => ⟨?_, ?_⟩, ?_, fun hv2 => alignpos_ends v hv hv2,
    fun a ha b hb hskip dr dc hdr hdc => ?_,
    fun r c hr hc => structuralGrid_ne_unset_iff hv1 hv eb m test hr hc⟩
  · obtain ⟨htl, htr, hbl⟩ := cell_finderGrid (n := 4 * v + 17) (by omega) hr hc
    refine ⟨hset ?_, hset ?_, hset ?_⟩
    · rw [structuralGrid_finder hv1 hv eb m test (by unfold FinderZone; omega), htl]
    · rw [structuralGrid_finder hv1 hv eb m test (by unfold FinderZone; omega), htr]
    · rw [structuralGrid_finder hv1 hv eb m test (by unfold FinderZone; omega), hbl]
  · exact hset (structuralGrid_timing hv1 hv eb m test (.inl ⟨rfl, mem_timingIndices.mpr (by omega)⟩))
  · have h := structuralGrid_timing hv1 hv eb m test (i := 6) (j := k) (.inr ⟨rfl, mem_timingIndices.mpr (by omega)⟩)
    rw [if_neg (by omega)] at h
    exact hset h
  · rintro rfl
    rfl
  · obtain ⟨ha6, -⟩ := alignpos_spec v hv a ha
    obtain ⟨hb6, -⟩ := alignpos_spec v hv b hb
    refine hset ((structuralGrid_alignment hv1 hv eb m test ha hb hskip (by unfold Covers; dsimp only; omega)).trans ?_)
    rw [show a + dr - 2 + 2 - a = dr by omega, show b + dc - 2 + 2 - b = dc by omega]

end Sys2Proof.Machine
end

section
/-! SUPPORT. The four rules of the penalty (45_mask_select.md R330 to R334): what each recursion counts, and bounds. -/

namespace Sys2Proof.Machine

/-! ## Rule 1 (R331) -/

/-- A list of one colour is one run. -/
theorem splitBy_replicate_succ (x : Bool) (k : Nat) :
    (List.replicate (k + 1) x).splitBy (· == ·) = [List.replicate (k + 1) x] := by
  refine List.splitBy_of_isChain (by simp) (List.isChain_replicate_of_rel _ (by simp))

/-- The run in progress with the rest of the line: its length so far stands before the line. -/
theorem runsFrom_eq (x : Bool) (k : Nat) (l : List Bool) : runsFrom x (k + 1) l =
    (((List.replicate (k + 1) x ++ l).splitBy (· == ·)).map (fun run => runScore run.length)).sum := by
  induction l generalizing x k with
  | nil => simp [runsFrom, splitBy_replicate_succ]
  | cons y l ih =>
    unfold runsFrom
    split_ifs with h
    · rw [ih, beq_iff_eq.mp h, List.replicate_succ' (n := k + 1), List.append_assoc]
      rfl
    · rw [List.splitBy_append_cons _ (by simpa [List.getLast?_replicate, @eq_comm _ x] using h), List.map_append,
        List.sum_append, splitBy_replicate_succ, ih y 0]
      simp

theorem lineRuns_eq (l : List Bool) :
    lineRuns l = ((l.splitBy (· == ·)).map (fun run => runScore run.length)).sum := by
  cases l with
  | nil => rfl
  | cons x l => exact runsFrom_eq x 0 l

theorem runScore_le (k : Nat) : runScore k ≤ k := by
  unfold runScore
  split_ifs <;> omega

theorem lineRuns_le (l : List Bool) : lineRuns l ≤ l.length := by
  rw [lineRuns_eq]
  calc ((l.splitBy (· == ·)).map (fun run => runScore run.length)).sum
      ≤ ((l.splitBy (· == ·)).map List.length).sum := List.sum_le_sum fun run _ => runScore_le _
    _ = l.length := by rw [← List.length_flatten, List.flatten_splitBy]

/-! ## Rule 3 (R333) -/

theorem lineFinders_eq (l : List Bool) : lineFinders l =
    40 * ((List.range (l.length - 6)).filter (fun k => (l.drop k).take 7 == finderLine)).length := by
  induction l with
  | nil => rfl
  | cons x l ih =>
    rw [lineFinders, ih]
    by_cases hlen : 6 ≤ l.length
    · rw [show (x :: l).length - 6 = l.length - 6 + 1 by rw [List.length_cons]; omega, List.range_succ_eq_map,
        List.filter_cons, List.filter_map, List.drop_zero]
      split_ifs
      · simp only [List.length_cons, List.length_map, Function.comp_def, List.drop_succ_cons]
        omega
      · simp only [List.length_map, Function.comp_def, List.drop_succ_cons]
        omega
    · have hne : ((x :: l).take 7 == finderLine) = false := by
        rw [beq_eq_false_iff_ne]
        intro h
        have := congrArg List.length h
        simp [finderLine] at this
        omega
      rw [hne, show l.length - 6 = 0 by omega, show (x :: l).length - 6 = 0 by rw [List.length_cons]; omega]
      rfl

theorem lineFinders_le (l : List Bool) : lineFinders l ≤ 40 * l.length := by
  have := List.length_filter_le (fun k => (l.drop k).take 7 == finderLine) (List.range (l.length - 6))
  rw [List.length_range] at this
  rw [lineFinders_eq]
  omega

/-! ## Rule 2 (R332) -/

/-- The 2 × 2 block at column c of two rows is of one colour. -/
def UniformBlock (a b : List Bool) (c : Nat) : Bool :=
  a.getD c false == a.getD (c + 1) false && a.getD c false == b.getD c false &&
    a.getD c false == b.getD (c + 1) false

theorem blockScore_eq {a b : List Bool} (h : a.length = b.length) :
    blockScore a b = 3 * ((List.range (a.length - 1)).filter (UniformBlock a b)).length := by
  induction a generalizing b with
  | nil => cases b <;> rfl
  | cons x a ih =>
    cases b with
    | nil => cases h
    | cons y b =>
      cases a with
      | nil => cases b <;> rfl
      | cons x' a =>
        cases b with
        | nil => cases h
        | cons y' b =>
          rw [blockScore, ih (by simpa using h)]
          rw [show (x :: x' :: a).length - 1 = (x' :: a).length - 1 + 1 by simp, List.range_succ_eq_map, List.filter_cons,
            List.filter_map]
          have hhead : UniformBlock (x :: x' :: a) (y :: y' :: b) 0 = (x == x' && x' == y && y == y') := by
            cases x <;> cases x' <;> cases y <;> cases y' <;> rfl
          have htail : UniformBlock (x :: x' :: a) (y :: y' :: b) ∘ Nat.succ = UniformBlock (x' :: a) (y' :: b) := rfl
          rw [hhead, htail]
          split_ifs
          · simp only [List.length_cons, List.length_map]
            omega
          · simp only [List.length_map]
            omega

theorem blockScore_le {a b : List Bool} (h : a.length = b.length) : blockScore a b ≤ 3 * a.length := by
  have := List.length_filter_le (UniformBlock a b) (List.range (a.length - 1))
  rw [List.length_range] at this
  rw [blockScore_eq h]
  omega

theorem penalty2_eq (rows : List (List Bool)) : penalty2 rows =
    ((List.range (rows.length - 1)).map (fun r => blockScore (rows.getD r []) (rows.getD (r + 1) []))).sum := by
  induction rows with
  | nil => rfl
  | cons r rows ih =>
    cases rows with
    | nil => rfl
    | cons r' rows =>
      rw [penalty2, ih, show (r :: r' :: rows).length - 1 = (r' :: rows).length - 1 + 1 by simp,
        List.range_succ_eq_map, List.map_cons, List.sum_cons, List.map_map]
      rfl

/-! ## The whole penalty (R330) -/

section
variable {n : Nat} {g : Grid}

theorem length_rowLine (n : Nat) (g : Grid) (r : Nat) : (rowLine n g r).length = n := by simp [rowLine]

theorem length_colLine (n : Nat) (g : Grid) (c : Nat) : (colLine n g c).length = n := by simp [colLine]

theorem getD_columnLines (rows : List (List Bool)) {r c : Nat} (hc : c < n) (hr : r < rows.length) :
    ((columnLines n rows).getD c []).getD r false = (rows.getD r []).getD c false := by
  simp [columnLines, List.getD, hc, hr]

theorem penalty2_colours (hg : Grid.Square n g) : penalty2 g.colours =
    ((List.range (n - 1)).map (fun r => blockScore (rowLine n g r) (rowLine n g (r + 1)))).sum := by
  rw [penalty2_eq, Grid.colours_eq hg, List.length_map, List.length_range]
  refine congrArg List.sum (List.map_congr_left fun r hr => ?_)
  have : r < n - 1 := List.mem_range.mp hr
  simp [List.getD, show r < n by omega, show r + 1 < n by omega]

theorem darkCount_colours (hg : Grid.Square n g) :
    darkCount g.colours = ((List.range n).map (fun r => (rowLine n g r).count true)).sum := by
  rw [darkCount, Grid.colours_eq hg, List.map_map]
  rfl

theorem penalty_eq (hg : Grid.Square n g) : penalty n g =
    ((List.range n).map (fun r => lineRuns (rowLine n g r) + lineFinders (rowLine n g r))).sum +
    ((List.range n).map (fun c => lineRuns (colLine n g c) + lineFinders (colLine n g c))).sum +
    ((List.range (n - 1)).map (fun r => blockScore (rowLine n g r) (rowLine n g (r + 1)))).sum +
    penalty4 n ((List.range n).map (fun r => (rowLine n g r).count true)).sum := by
  rw [← penalty2_colours hg, ← darkCount_colours hg, List.sum_map_add, List.sum_map_add]
  simp only [penalty, penalty1, penalty3, lines, List.map_append, List.sum_append, Grid.columnLines_eq hg]
  simp only [Grid.colours_eq hg, List.map_map, Function.comp_def]
  omega

/-- A sum of `k` terms none above `b`. -/
theorem sum_map_range_le {f : Nat → Nat} {b : Nat} (k : Nat) (h : ∀ i, f i ≤ b) :
    ((List.range k).map f).sum ≤ k * b := by
  have := List.sum_le_card_nsmul ((List.range k).map f) b fun x hx => by
    obtain ⟨i, -, rfl⟩ := List.mem_map.mp hx
    exact h i
  simpa using this

/-- A line scores at most 41 per cell under rules 1 and 3, a pair of rows 3 per cell under rule 2. -/
theorem penalty_le (hg : Grid.Square n g) : penalty n g ≤ 85 * (n * n) + 100 := by
  have hline : ∀ l : List Bool, l.length = n → lineRuns l + lineFinders l ≤ 41 * n := fun l hl => by
    have h1 := lineRuns_le l
    have h3 := lineFinders_le l
    omega
  have hrows := sum_map_range_le n fun r => hline _ (length_rowLine n g r)
  have hcols := sum_map_range_le n fun c => hline _ (length_colLine n g c)
  have hblocks : ((List.range (n - 1)).map (fun r => blockScore (rowLine n g r) (rowLine n g (r + 1)))).sum ≤
      (n - 1) * (3 * n) := sum_map_range_le (n - 1) fun r => by
    have := blockScore_le (a := rowLine n g r) (b := rowLine n g (r + 1)) (by simp [length_rowLine])
    rwa [length_rowLine] at this
  have hdark : ((List.range n).map (fun r => (rowLine n g r).count true)).sum ≤ n * n := sum_map_range_le n fun r =>
    List.count_le_length.trans_eq (length_rowLine n g r)
  have h4 := penalty4_le hdark
  rw [penalty_eq hg]
  nlinarith [Nat.mul_le_mul_right (3 * n) (Nat.sub_le n 1)]

end

theorem Grid.square_of_resolved {n : Nat} {g : Grid} (h : Grid.resolved n g = true) : Grid.Square n g := by
  simp only [Grid.resolved, Bool.and_eq_true, beq_iff_eq, List.all_eq_true] at h
  exact ⟨h.1, fun row hrow => (h.2 row hrow).1⟩

/-- A square grid is its own top left corner. -/
theorem State.gridView_eq {s : State} (h : Grid.Square s.moduleCount.toNat s.grid) : s.gridView = s.grid := by
  rw [State.gridView, ← h.1, List.take_length]
  refine (List.map_congr_left fun row hrow => ?_).trans (List.map_id _)
  rw [h.1, ← h.2 row hrow, List.take_length]
  rfl

end Sys2Proof.Machine
end

section
/-! PROOFS. The penalty (45_mask_select.md): O44 and O45. -/

namespace Sys2Proof.Machine

theorem exec_penalty_of_empty {s : State} (h : s.gridState = .empty) :
    exec .penalty s = .next (s.complete .badArgument) := if_pos (by simp [h])

theorem exec_penalty_of_held {s : State} (h : s.gridState ≠ .empty) : exec .penalty s = .next
    (((s.setRes0 (zext (penalty s.moduleCount.toNat s.gridView))).setRes1 (zext (darkCount s.gridView.colours))).complete
      .none) := if_neg (by simp [h])

/-- Settles O44: on a resolved grid the bounds of the four rules give less than 2^22. -/
theorem penaltyCommand : Obligations.PenaltyCommand := by
  intro s
  refine ⟨exec_penalty_of_empty, fun hheld => ⟨exec_penalty_of_held hheld, fun hres hn => ?_⟩⟩
  have hsq := Grid.square_of_resolved (hres hheld)
  rw [State.gridView_eq hsq]
  refine ⟨rfl, ?_, ?_⟩
  · rw [darkCount_colours hsq]
    simp only [rowLine, List.count_eq_countP, List.countP_eq_length_filter, List.filter_map, List.length_map,
      Function.comp_def, beq_true]
  · have hle := penalty_le hsq
    have := Nat.mul_le_mul hn hn
    omega

/-- Settles O45: each recursion counts what its rule says, and the lines of the grid are its rows and columns. -/
theorem penaltyRulesCountRunsBlocksAndFinders : Obligations.PenaltyRulesCountRunsBlocksAndFinders :=
  ⟨lineRuns_eq, lineFinders_eq, fun _ _ => blockScore_eq, penalty2_eq, fun _ rows _ _ => getD_columnLines rows,
    fun _ _ hrows hcols => penalty_eq ⟨hrows, hcols⟩⟩

end Sys2Proof.Machine
end

section
/-! SUPPORT. ENCODE (46_control.md R352): what each phase answers, and what the command does with it. -/

namespace Sys2Proof.Machine

theorem Level.ofBits_bits (ecl : Level) : Level.ofBits (Level.bits ecl) = ecl := by cases ecl <;> decide

section
variable {s : State} {segs : List Segment}

/-! ## Phase 1: the descriptors -/

theorem readSegments_succ_of_some {k n : Nat} {g : Segment} (h : s.segment k = some g) :
    readSegments s k (n + 1) = (readSegments s (k + 1) n).map (g :: ·) := by
  simp only [readSegments, h]
  cases readSegments s (k + 1) n <;> rfl

theorem readSegments_succ_of_none {k n : Nat} (h : s.segment k = none) :
    readSegments s k (n + 1) = .error ⟨.badArgument, some (zext k), none⟩ := by
  simp only [readSegments, h]

theorem readSegments_eq_ok {k : Nat} (h : ∀ i g, segs[i]? = some g → s.segment (k + i) = some g) :
    readSegments s k segs.length = .ok segs := by
  induction segs generalizing k with
  | nil => rfl
  | cons g segs ih =>
    have hrest : readSegments s (k + 1) segs.length = .ok segs := ih fun i g' hg => by
      rw [Nat.add_right_comm]
      exact h (i + 1) g' hg
    rw [List.length_cons, readSegments_succ_of_some (k := k) (h 0 g rfl), hrest]
    rfl

theorem readSegments_eq_error {k n j : Nat} (hj : j < n) (h : ∀ i < j, s.segment (k + i) ≠ none)
    (hnone : s.segment (k + j) = none) :
    readSegments s k n = .error ⟨.badArgument, some (zext (k + j)), none⟩ := by
  obtain ⟨n, rfl⟩ : ∃ m, n = m + 1 := ⟨n - 1, by omega⟩
  induction j generalizing k n with
  | zero => exact readSegments_succ_of_none hnone
  | succ j ih =>
    obtain ⟨g, hg⟩ := Option.ne_none_iff_exists'.mp (h 0 (by omega))
    obtain ⟨n, rfl⟩ : ∃ m, n = m + 1 := ⟨n - 1, by omega⟩
    rw [readSegments_succ_of_some (k := k) hg, ih (k := k + 1) _ _ _ (by omega)]
    · rw [Nat.add_right_comm]
      rfl
    · exact fun i hi => by rw [Nat.add_right_comm]; exact h (i + 1) (by omega)
    · rwa [Nat.add_right_comm]

theorem code_of_readSegments_error {k n : Nat} {e : EncodeError} (h : readSegments s k n = .error e) :
    e.code = .badArgument ∧ e.res1 = none := by
  induction n generalizing k with
  | zero => cases h
  | succ n ih =>
    cases hg : s.segment k with
    | none =>
      rw [readSegments_succ_of_none hg] at h
      cases h
      exact ⟨rfl, rfl⟩
    | some g =>
      rw [readSegments_succ_of_some hg] at h
      cases hrest : readSegments s (k + 1) n with
      | error e' =>
        rw [hrest] at h
        cases h
        exact ih hrest
      | ok segs =>
        rw [hrest] at h
        cases h

theorem encodeArguments_of_above (h : 64 < s.segCount.toNat ∨ 40 < s.cfgVersion.toNat) :
    encodeArguments s = .error ⟨.badArgument, some 0xFFFFFFFF#32, none⟩ := by
  simp only [encodeArguments, Config.segCap, Config.versionMax]
  split_ifs with h1 h2
  · rfl
  · rfl
  · omega

theorem encodeArguments_of_le (h1 : s.segCount.toNat ≤ 64) (h2 : s.cfgVersion.toNat ≤ 40) :
    encodeArguments s = readSegments s 0 s.segCount.toNat := by
  simp only [encodeArguments, Config.segCap, Config.versionMax]
  rw [if_neg (by omega), if_neg (by omega)]

theorem code_of_encodeArguments_error {e : EncodeError} (h : encodeArguments s = .error e) :
    e.code = .badArgument ∧ e.res1 = none := by
  by_cases habove : 64 < s.segCount.toNat ∨ 40 < s.cfgVersion.toNat
  · rw [encodeArguments_of_above habove] at h
    cases h
    exact ⟨rfl, rfl⟩
  · rw [encodeArguments_of_le (by omega) (by omega)] at h
    exact code_of_readSegments_error h

theorem cfgVersion_le_of_encodeArguments_ok (h : encodeArguments s = .ok segs) : s.cfgVersion.toNat ≤ 40 := by
  by_contra hc
  rw [encodeArguments_of_above (.inr (by omega))] at h
  cases h

theorem encodeArguments_of_hasSegments (h1 : s.segCount.toNat ≤ 64) (h2 : s.cfgVersion.toNat ≤ 40)
    (hsegs : s.HasSegments segs) : encodeArguments s = .ok segs := by
  obtain ⟨hlen, hseg⟩ := hsegs
  rw [encodeArguments_of_le h1 h2, ← hlen]
  refine readSegments_eq_ok fun i g hg => ?_
  obtain ⟨hmode, htext, hchars⟩ := hseg i g hg
  rw [Nat.zero_add, State.segment_of_legal hmode htext, ← hchars]

/-! ## Phase 2: the text -/

theorem validateSegments_eq_ok (k : Nat) (h : ∀ g ∈ segs, g.Valid) : validateSegments k segs = .ok () := by
  induction segs generalizing k with
  | nil => rfl
  | cons g segs ih =>
    obtain ⟨hg, hsegs⟩ := List.forall_mem_cons.mp h
    simp only [validateSegments, Segment.firstBad_eq_none_iff.mpr hg]
    exact ih _ hsegs

theorem validateSegments_eq_error {k j b : Nat} {g : Segment} (hg : segs[j]? = some g) (hb : g.firstBad = some b)
    (h : ∀ i h, i < j → segs[i]? = some h → h.Valid) :
    validateSegments k segs = .error ⟨.invalidCharacter, some (zext (k + j)), some (zext b)⟩ := by
  induction segs generalizing k j with
  | nil => simp at hg
  | cons g' segs ih =>
    cases j with
    | zero =>
      obtain rfl : g' = g := by simpa using hg
      simp only [validateSegments, hb]
      rfl
    | succ j =>
      simp only [validateSegments, Segment.firstBad_eq_none_iff.mpr (h 0 g' (by omega) rfl)]
      rw [ih hg fun i g'' hi hg'' => h (i + 1) g'' (by omega) hg'', Nat.add_right_comm]
      rfl

theorem code_of_validateSegments_error {k : Nat} {e : EncodeError} (h : validateSegments k segs = .error e) :
    e.code = .invalidCharacter := by
  induction segs generalizing k with
  | nil => cases h
  | cons g segs ih =>
    unfold validateSegments at h
    split at h
    · cases h
      rfl
    · exact ih h

/-! ## Phase 3: the version -/

theorem encodeVersion_eq_error_of_error {cfg : Nat} {ecl : Level} {e : ErrCode}
    (h : selectVersion cfg segs ecl = .error e) : encodeVersion cfg segs ecl = .error ⟨e, none, none⟩ := by
  simp only [encodeVersion, h]

theorem encodeVersion_of_chosen {cfg : Nat} {ecl : Level} {v : Nat} (h : VersionChosen cfg segs ecl v) :
    encodeVersion cfg segs ecl =
      if capbits v ecl < totalBits segs v then .error ⟨.codeTooLarge, none, none⟩ else .ok v := by
  simp only [encodeVersion, selectVersion_eq_ok_iff.mpr h]

theorem encodeVersion_eq_error {cfg : Nat} {ecl : Level} {e : EncodeError} (h : encodeVersion cfg segs ecl = .error e) :
    e = ⟨.codeTooLarge, none, none⟩ := by
  cases hsel : selectVersion cfg segs ecl with
  | error c =>
    rw [encodeVersion_eq_error_of_error hsel, (selectVersion_eq_error_iff.mp hsel).1] at h
    cases h
    rfl
  | ok v =>
    rw [encodeVersion_of_chosen (selectVersion_eq_ok_iff.mp hsel)] at h
    split_ifs at h
    cases h
    rfl

theorem encodeVersion_eq_ok {cfg : Nat} {ecl : Level} {v : Nat} (h : encodeVersion cfg segs ecl = .ok v) :
    VersionChosen cfg segs ecl v ∧ totalBits segs v ≤ capbits v ecl := by
  cases hsel : selectVersion cfg segs ecl with
  | error c =>
    rw [encodeVersion_eq_error_of_error hsel] at h
    cases h
  | ok v' =>
    have hchosen := selectVersion_eq_ok_iff.mp hsel
    rw [encodeVersion_of_chosen hchosen] at h
    split_ifs at h with hfit
    cases h
    exact ⟨hchosen, Nat.not_lt.mp hfit⟩

theorem versionChosen_bounds {cfg : Nat} {ecl : Level} {v : Nat} (hcfg : cfg ≤ 40) (h : VersionChosen cfg segs ecl v) :
    1 ≤ v ∧ v ≤ 40 := by
  rcases h with ⟨h0, rfl⟩ | ⟨-, h1, h40, -⟩
  · omega
  · exact ⟨h1, h40⟩

/-! ## The phases together -/

theorem encodeSymbol_of_arguments {e : EncodeError} (h : encodeArguments s = .error e) : encodeSymbol s = .error e := by
  rw [encodeSymbol, h]
  rfl

theorem encodeSymbol_of_text (hargs : encodeArguments s = .ok segs) {e : EncodeError}
    (h : validateSegments 0 segs = .error e) : encodeSymbol s = .error e := by
  simp only [encodeSymbol, hargs, h, bind, Except.bind]

theorem encodeSymbol_of_version (hargs : encodeArguments s = .ok segs) (htext : validateSegments 0 segs = .ok ())
    {e : EncodeError} (h : encodeVersion s.cfgVersion.toNat segs (Level.ofBits s.cfgEcl) = .error e) :
    encodeSymbol s = .error e := by
  simp only [encodeSymbol, hargs, htext, h, bind, Except.bind]

theorem encodeSymbol_of_ok (hargs : encodeArguments s = .ok segs) (htext : validateSegments 0 segs = .ok ()) {v : Nat}
    (hver : encodeVersion s.cfgVersion.toNat segs (Level.ofBits s.cfgEcl) = .ok v) {a : Assembled}
    (h : assemble segs v (Level.ofBits s.cfgEcl) = .ok a) :
    encodeSymbol s = .ok ⟨v, selectMask v s.cfgEcl a.codewords, a.bits, a.codewords⟩ := by
  simp only [encodeSymbol, hargs, htext, hver, h, bind, Except.bind]

/-- What O49 says of the sizes. -/
theorem exists_assemble_eq_ok {v : Nat} {ecl : Level} (hv1 : 1 ≤ v) (hv : v ≤ 40)
    (hfit : totalBits segs v ≤ capbits v ecl) : ∃ a, assemble segs v ecl = .ok a ∧ a.bits.length = capbits v ecl ∧
      capbits v ecl ≤ 23648 ∧ a.codewords.length = totalcw v ecl ∧ totalcw v ecl ≤ 3706 := by
  obtain ⟨a, -, -, ha, hbits, hcap, hcws, -, hcw, -⟩ := assemblerFillsTheCapacity segs v ecl hv1 hv hfit
  exact ⟨a, ha, hbits, hcap, hcws, hcw⟩

/-- The assembler's errors cannot happen, so what ENCODE ends with is one of the errors of its three checks. -/
theorem encodeSymbol_cases (s : State) :
    (∃ e, encodeSymbol s = .error e ∧ ((e.code = .badArgument ∧ e.res1 = none) ∨ e.code = .invalidCharacter ∨
      e = ⟨.codeTooLarge, none, none⟩)) ∨
    ∃ segs v a, 1 ≤ v ∧ v ≤ 40 ∧ assemble segs v (Level.ofBits s.cfgEcl) = .ok a ∧ a.bits.length ≤ 23648 ∧
      a.codewords.length ≤ 3706 ∧
      encodeSymbol s = .ok ⟨v, selectMask v s.cfgEcl a.codewords, a.bits, a.codewords⟩ := by
  cases hargs : encodeArguments s with
  | error e => exact .inl ⟨e, encodeSymbol_of_arguments hargs, .inl (code_of_encodeArguments_error hargs)⟩
  | ok segs =>
    cases htext : validateSegments 0 segs with
    | error e => exact .inl ⟨e, encodeSymbol_of_text hargs htext, .inr (.inl (code_of_validateSegments_error htext))⟩
    | ok u =>
      cases hver : encodeVersion s.cfgVersion.toNat segs (Level.ofBits s.cfgEcl) with
      | error e => exact .inl ⟨e, encodeSymbol_of_version hargs htext hver, .inr (.inr (encodeVersion_eq_error hver))⟩
      | ok v =>
        obtain ⟨hchosen, hfit⟩ := encodeVersion_eq_ok hver
        obtain ⟨hv1, hv⟩ := versionChosen_bounds (cfgVersion_le_of_encodeArguments_ok hargs) hchosen
        obtain ⟨a, ha, hbits, hcap, hcws, hcw⟩ := exists_assemble_eq_ok hv1 hv hfit
        exact .inr ⟨segs, v, a, hv1, hv, ha, by omega, by omega, encodeSymbol_of_ok hargs htext hver ha⟩

end

theorem exec_encode_of_error {s : State} {e : EncodeError} (h : encodeSymbol s = .error e) : exec .encode s =
    .next (((s.dropGrid.setRes0? e.res0).setRes1? e.res1).complete e.code) := by
  simp only [exec, execEncode, h, failEncode, raise]

theorem exec_encode_of_ok {s : State} {e : Encoded} (h : encodeSymbol s = .ok e) :
    exec .encode s = .next ((s.commitSymbol e).complete .none) := by
  simp only [exec, execEncode, h, finish]

end Sys2Proof.Machine
end

section
/-! PROOFS. ENCODE and the grid read (46_control.md): O51 to O53. -/

namespace Sys2Proof.Machine

/-- The fields of the state after the commit. -/
theorem State.commitSymbol_complete (s : State) (v m : Nat) (bits : List Bool) (cws : List Byte) :
    (s.commitSymbol ⟨v, m, bits, cws⟩).complete .none = { s with
      bb := bits
      mem := (s.writeCodewords cws).mem
      cwLen := BitVec.ofNat 12 cws.length
      grid := buildGrid v s.cfgEcl cws m false
      gridState := .committed
      symVersion := BitVec.ofNat 6 v
      symMask := BitVec.ofNat 3 m
      symEcl := s.cfgEcl
      moduleCount := BitVec.ofNat 8 (4 * v + 17)
      res0 := BitVec.ofNat 32 v
      res1 := BitVec.ofNat 32 m
      seq := .idle, done := true, err := .none } := by
  simp only [State.commitSymbol, State.setRes1, State.setRes0, State.setGrid, State.writeCodewords, State.appendBits,
    State.clearBits, State.setBits, State.complete, List.nil_append, zext]

/-- Settles O51: the three checks pass, the assembler succeeds (O49), the commit writes what R352 names. -/
theorem encodeCommits : Obligations.EncodeCommits := by
  intro s segs ecl v hmem hcount hcfg hsegs hvalid hecl hchosen hfit
  obtain ⟨hv1, hv⟩ := versionChosen_bounds hcfg hchosen
  obtain ⟨a, ha, hbits, -, hcws, hcw⟩ := exists_assemble_eq_ok hv1 hv hfit
  have hlevel : Level.ofBits s.cfgEcl = ecl := by rw [← hecl, Level.ofBits_bits]
  have hexec := exec_encode_of_ok (encodeSymbol_of_ok (encodeArguments_of_hasSegments hcount hcfg hsegs)
    (validateSegments_eq_ok 0 hvalid)
    (by rw [hlevel, encodeVersion_of_chosen hchosen, if_neg (Nat.not_lt.mpr hfit)]) (by rw [hlevel]; exact ha))
  obtain ⟨hread, hkeep⟩ := writeCodewords_read hmem (out := a.codewords) (by omega)
  rw [hcws] at hread hkeep
  refine ⟨a, (s.writeCodewords a.codewords).mem, ha, hbits, hcws, hexec.trans ?_, hread, hkeep⟩
  rw [← hcws, State.commitSymbol_complete]

/-- Settles O52: the first failing phase decides. -/
theorem encodeErrorsDiscardTheGrid : Obligations.EncodeErrorsDiscardTheGrid := by
  rintro s _ rfl
  refine ⟨fun h => exec_encode_of_error (encodeSymbol_of_arguments (encodeArguments_of_above h)),
    fun hcount hcfg => ⟨fun k hk hbad hgood => ?_, fun segs hsegs => ⟨fun k g j c hg hc hbad hbefore hearlier => ?_,
      fun ecl hvalid hecl hlarge => ?_⟩⟩⟩
  · have hread := readSegments_eq_error (s := s) (k := 0) (j := k) hk (fun i hi => ?_)
      (by rw [Nat.zero_add]; exact State.segment_of_illegal hbad)
    · rw [← encodeArguments_of_le hcount hcfg, Nat.zero_add] at hread
      exact exec_encode_of_error (encodeSymbol_of_arguments hread)
    · obtain ⟨⟨mode, hmode⟩, hlen⟩ := hgood i hi
      rw [Nat.zero_add, State.segment_of_legal hmode hlen]
      exact Option.some_ne_none _
  · have hargs := encodeArguments_of_hasSegments hcount hcfg hsegs
    have htext := validateSegments_eq_error (k := 0) hg (Segment.firstBad_eq_some hc hbad hbefore) hearlier
    rw [Nat.zero_add] at htext
    exact exec_encode_of_error (encodeSymbol_of_text hargs htext)
  · have hargs := encodeArguments_of_hasSegments hcount hcfg hsegs
    have hver : encodeVersion s.cfgVersion.toNat segs (Level.ofBits s.cfgEcl) = .error ⟨.codeTooLarge, none, none⟩ := by
      rw [← hecl, Level.ofBits_bits]
      rcases hlarge with ⟨h0, hnone⟩ | ⟨h0, hlarge⟩
      · exact encodeVersion_eq_error_of_error (selectVersion_eq_error_iff.mpr ⟨rfl, h0, hnone⟩)
      · rw [encodeVersion_of_chosen (.inl ⟨h0, rfl⟩), if_pos hlarge]
    exact exec_encode_of_error (encodeSymbol_of_version hargs (validateSegments_eq_ok 0 hvalid) hver)

/-- ISDARK reads a cell of the held grid (R353). -/
def State.ReadsCell (s : State) : Prop :=
  s.gridState ≠ .empty ∧ 0 ≤ s.arg0.toInt ∧ s.arg0.toInt < s.moduleCount.toNat ∧ 0 ≤ s.arg1.toInt ∧
    s.arg1.toInt < s.moduleCount.toNat

theorem exec_isDark_of_reads {s : State} (h : s.ReadsCell) : exec .isDark s = .next ((s.setRes0
    (zext (s.grid.cell s.arg0.toInt.toNat s.arg1.toInt.toNat == .dark).toNat)).complete .none) := by
  obtain ⟨h0, h1, h2, h3, h4⟩ := h
  exact if_neg (by simp [State.inGrid, argS, h0, h1, h2, h3, h4])

theorem exec_isDark_of_not_reads {s : State} (h : ¬ s.ReadsCell) :
    exec .isDark s = .next (s.complete .outOfRange) := by
  refine if_pos (by_contra fun hc => h ?_)
  simpa [State.inGrid, argS, State.ReadsCell, and_assoc] using hc

/-- Settles O53: the two clauses are the two branches of the command. -/
theorem isDarkCommand : Obligations.IsDarkCommand := by
  refine ⟨rfl, fun s => ⟨fun hheld h0 h1 h2 h3 => ?_, fun h => exec_isDark_of_not_reads ?_,
    fun h => exec_isDark_of_not_reads ?_⟩⟩
  · rw [exec_isDark_of_reads ⟨hheld, h0, h1, h2, h3⟩, zext_toNat_bool]
    simp only [beq_iff_eq]
    rfl
  · rintro ⟨hheld, h0, h1, h2, h3⟩
    rcases h with h | h | h | h | h
    · exact hheld h
    all_goals omega
  · rintro ⟨-, h0, -⟩
    rw [h] at h0
    exact absurd h0 (by decide)

end Sys2Proof.Machine
end

section
/-! SUPPORT. All commands (60_exceptions.md R381, R390, R392): every way a command can end, said once. A proof about all
commands is a case analysis of `Ends`. -/

namespace Sys2Proof.Machine

/-- The commands whose only result is RES0. -/
def resultOnly : List Instr := [.gfExp, .gfLog, .bchFmt, .bchVer, .maskBit, .isDark]

/-- An error of the command's row that changes only STATUS (R390). -/
abbrev Refuses (i : Instr) (e : ErrCode) : Prop :=
  e ∈ Instr.errors i ∧ e ≠ .none ∧ e ≠ .invalidCharacter ∧ i ≠ .encode

/-- From `s` a command can end with the code given, and with what the state given holds written before it completes. -/
inductive Ends (s : State) : Instr → State → ErrCode → Prop
  | nop : Ends s .nop s .none
  | sreset : Ends s .sreset s.resetRegisters .none
  | result {i : Instr} (hi : i ∈ resultOnly) (x : Word) : Ends s i (s.setRes0 x) .none
  | poly {i : Instr} {d : PReg} {p : List Byte} (hd : i.regs.head? = some d) (hp : p.length ≤ 256) :
      Ends s i (s.writePoly d p) .none
  | bbClear : Ends s .bbClear s.clearBits .none
  | bbPut {bits : List Bool} (h : s.bb.length + bits.length ≤ 23648) : Ends s .bbPut (s.appendBits bits) .none
  | segWrite {bits : List Bool} (h : s.bb.length + bits.length ≤ 23648) (x y : Word) :
      Ends s .segWrite (((s.appendBits bits).setRes0 x).setRes1 y) .none
  | build {v m : Nat} (hv1 : 1 ≤ v) (hv : v ≤ 40) (cws : List Byte) (test : Bool) :
      Ends s .build (s.setGrid (buildGrid v s.cfgEcl cws m test) .masked v m s.cfgEcl) .none
  | penalty (x y : Word) : Ends s .penalty ((s.setRes0 x).setRes1 y) .none
  | encode {v m : Nat} {bits : List Bool} {cws : List Byte} (hv1 : 1 ≤ v) (hv : v ≤ 40) (hbits : bits.length ≤ 23648)
      (hcws : cws.length ≤ 3706) : Ends s .encode (s.commitSymbol ⟨v, m, bits, cws⟩) .none
  | refused {i : Instr} {e : ErrCode} (h : Refuses i e) : Ends s i s e
  | invalidText (x y : Word) : Ends s .segWrite ((s.setRes0 x).setRes1 y) .invalidCharacter
  | discarded {e : EncodeError} (he : (e.code = .badArgument ∧ e.res1 = none) ∨ e.code = .invalidCharacter ∨
      e = ⟨.codeTooLarge, none, none⟩) : Ends s .encode ((s.dropGrid.setRes0? e.res0).setRes1? e.res1) e.code

/-- What is to be shown of each command. -/
def EndsOf (i : Instr) (s : State) : Prop := ∃ u e, exec i s = .next (u.complete e) ∧ Ends s i u e

/-! ## The polynomial commands -/

/-- A polynomial result: an error of the list, or at most 256 coefficients. -/
def PolyEnds (errs : List ErrCode) (r : Except ErrCode (List Byte)) : Prop :=
  (∃ e ∈ errs, r = .error e) ∨ ∃ p, r = .ok p ∧ p.length ≤ 256

/-- A polynomial command stores the result or refuses. -/
theorem endsOf_of_polyEnds {i : Instr} {d : PReg} {s : State} {errs : List ErrCode} {r : Except ErrCode (List Byte)}
    (hexec : exec i s = finishPoly d r s) (hd : i.regs.head? = some d)
    (herrs : ∀ e ∈ errs, Refuses i e) (h : PolyEnds errs r) : EndsOf i s := by
  rcases h with ⟨e, he, rfl⟩ | ⟨p, rfl, hp⟩
  · exact ⟨s, e, hexec, .refused (herrs e he)⟩
  · exact ⟨s.writePoly d p, .none, hexec, .poly hd hp⟩

section
variable {s : State} {a b : PReg}

theorem polyMulResult_ends : PolyEnds [.badArgument, .resourceLimit, .gfLogZero] (polyMulResult a b s) := by
  by_cases hplen : (1 ≤ (s.plen a).toNat ∧ (s.plen a).toNat ≤ 256) ∧ 1 ≤ (s.plen b).toNat ∧ (s.plen b).toNat ≤ 256
  · obtain ⟨⟨ha1, ha⟩, hb1, hb⟩ := hplen
    have ha0 := State.polyOperand_ne_nil ha1
    by_cases hlong : 256 < (s.polyOperand a).length + (s.polyOperand b).length - 1
    · exact .inl ⟨_, by simp, polyMulResult_of_long ha1 ha hb1 hb hlong⟩
    rw [polyMulResult_of_le ha1 ha hb1 hb (Nat.not_lt.mp hlong)]
    by_cases h0 : 0#8 ∈ s.polyOperand a ∨ 0#8 ∈ s.polyOperand b
    · exact .inl ⟨_, by simp, pmul_eq_error ha0 h0⟩
    · obtain ⟨r, hr, hlen, -⟩ := exists_pmul_eq_ok (fun x hx hx0 => h0 (.inl (hx0 ▸ hx)))
        (fun x hx hx0 => h0 (.inr (hx0 ▸ hx))) ha0 (State.polyOperand_ne_nil hb1)
      exact .inr ⟨r, hr, by omega⟩
  · exact .inl ⟨_, by simp, polyMulResult_of_plen a b (by rwa [not_and_or] at hplen)⟩

theorem polyModResult_ends : PolyEnds [.badArgument, .gfLogZero] (polyModResult a b s) := by
  by_cases hplen : (1 ≤ (s.plen a).toNat ∧ (s.plen a).toNat ≤ 256) ∧ 1 ≤ (s.plen b).toNat ∧ (s.plen b).toNat ≤ 256
  · obtain ⟨⟨ha1, ha⟩, hb1, hb⟩ := hplen
    have hb0 := List.length_pos_of_ne_nil (State.polyOperand_ne_nil hb1)
    have hlen := State.length_polyOperand_le (s := s) b
    rw [polyModResult_of_legal ha1 ha hb1 hb]
    by_cases hok : (s.polyOperand a).length < (s.polyOperand b).length ∨
        (2 ≤ (s.polyOperand b).length ∧ ∀ x ∈ s.polyOperand b, x ≠ 0#8)
    · obtain ⟨r, hr, -, hrlen⟩ := exists_pmod_polyOperand ha1 hok
      exact .inr ⟨r, hr, by omega⟩
    · obtain ⟨hge, hbad⟩ := not_or.mp hok
      refine .inl ⟨_, by simp, pmod_eq_error (State.polyOperand_ne_nil ha1) (norm_polyOperand a)
        (State.polyOperand_ne_nil hb1) (Nat.not_lt.mp hge) ?_⟩
      by_cases h1 : (s.polyOperand b).length = 1
      · exact .inl h1
      · exact .inr (by_contra fun h0 => hbad ⟨by omega, fun x hx hx0 => h0 (hx0 ▸ hx)⟩)
  · exact .inl ⟨_, by simp, polyModResult_of_plen a b (by rwa [not_and_or] at hplen)⟩

theorem polyGenResult_ends : PolyEnds [.resourceLimit] (polyGenResult s) := by
  by_cases h : 255 < s.arg0.toNat
  · exact .inl ⟨_, by simp, polyGenResult_of_gt h⟩
  · exact .inr ⟨_, polyGenResult_of_le (Nat.not_lt.mp h), by rw [length_genList]; omega⟩

theorem rsEccResult_ends : PolyEnds [.badArgument, .resourceLimit, .gfLogZero] (rsEccResult a s) := by
  by_cases hbad : ¬ (1 ≤ (s.plen a).toNat ∧ (s.plen a).toNat ≤ 256) ∨ s.arg0 = 0#32
  · exact .inl ⟨_, by simp, rsEccResult_of_bad a hbad⟩
  obtain ⟨hplen, h0⟩ := not_or.mp hbad
  obtain ⟨ha1, ha⟩ := not_not.mp hplen
  have he : 1 ≤ s.arg0.toNat := Nat.one_le_iff_ne_zero.mpr fun h => h0 (BitVec.eq_of_toNat_eq h)
  by_cases hgt : 255 < s.arg0.toNat
  · exact .inl ⟨_, by simp, rsEccResult_of_gt ha1 ha hgt⟩
  rw [rsEccResult_of_le ha1 ha he (Nat.not_lt.mp hgt)]
  by_cases herr : s.arg0.toNat = 255 ∧ ∃ x ∈ s.polyRaw a, x ≠ 0#8
  · exact .inl ⟨_, by simp, rsEcc_255_of_nonzero herr.1 herr.2⟩
  have hok : ∃ r, rsEcc (s.polyRaw a) s.arg0.toNat = .ok r := by
    by_cases h254 : s.arg0.toNat ≤ 254
    · exact ⟨_, rsEcc_eq_longDiv _ he h254⟩
    · refine ⟨_, rsEcc_of_all_zero he (Nat.not_lt.mp hgt) fun x hx => by_contra fun hx0 => herr ⟨by omega, x, hx, hx0⟩⟩
  obtain ⟨r, hr⟩ := hok
  exact .inr ⟨r, hr, by rw [length_rsEcc hr]; omega⟩

end

/-! ## The other commands -/

section
variable (s : State)

theorem gfLog_endsOf : EndsOf .gfLog s := by
  by_cases hlow : s.arg0.toInt < 1
  · exact ⟨_, _, exec_gfLog_of_error (gfLog_of_lt_one hlow), .refused (by decide)⟩
  by_cases hhigh : 255 < s.arg0.toInt
  · exact ⟨_, _, exec_gfLog_of_error (gfLog_of_gt hhigh), .refused (by decide)⟩
  · obtain ⟨l, -, -, hl⟩ := exists_gfLog_eq_of_mem_range (by omega : 1 ≤ s.arg0.toInt) (by omega)
    exact ⟨s.setRes0 (BitVec.ofNat 32 l), _, exec_gfLog_of_ok hl, .result (by decide) _⟩

theorem bbPut_endsOf : EndsOf .bbPut s := by
  by_cases hw : 32 < s.arg1.toNat
  · exact ⟨_, _, exec_bbPut_of_wide hw, .refused (by decide)⟩
  by_cases hfull : 23648 < s.bb.length + s.arg1.toNat
  · exact ⟨_, _, exec_bbPut_of_full (Nat.not_lt.mp hw) hfull,
      .refused (by decide)⟩
  · exact ⟨_, _, exec_bbPut_of_fits (Nat.not_lt.mp hw) (Nat.not_lt.mp hfull), .bbPut (by simpa [fieldBits] using hfull)⟩

theorem segWrite_endsOf : EndsOf .segWrite s := by
  cases hop : s.segWriteOperand with
  | none => exact ⟨_, _, exec_segWrite_of_none hop, .refused (by decide)⟩
  | some g =>
    cases hbad : g.firstBad with
    | some j => exact ⟨_, _, exec_segWrite_of_firstBad hop hbad, .invalidText _ _⟩
    | none =>
      have hexec := exec_segWrite_of_valid hop (Segment.firstBad_eq_none_iff.mp hbad)
      split_ifs at hexec with hcount hroom
      · exact ⟨_, _, hexec, .refused (by decide)⟩
      · exact ⟨_, _, hexec, .refused (by decide)⟩
      · exact ⟨_, _, hexec, .segWrite (by rw [Segment.length_bits]; omega) _ _⟩

theorem build_endsOf : EndsOf .build s := by
  by_cases hbad : s.BuildRefused
  · exact ⟨_, _, exec_build_of_refused hbad, .refused (by decide)⟩
  by_cases hm : 7 < s.arg0.toNat
  · exact ⟨_, _, exec_build_of_mask hbad hm, .refused (by decide)⟩
  · have hv := hbad
    unfold State.BuildRefused at hv
    exact ⟨_, _, exec_build_of_le hbad (Nat.not_lt.mp hm), .build (by omega) (by omega) _ _⟩

theorem bchFmt_endsOf : EndsOf .bchFmt s := by
  by_cases h : 31 < s.arg0.toNat
  · exact ⟨_, _, exec_bchFmt_of_gt h, .refused (by decide)⟩
  · exact ⟨_, _, exec_bchFmt_of_le (Nat.not_lt.mp h), .result (by decide) _⟩

theorem bchVer_endsOf : EndsOf .bchVer s := by
  by_cases h : 63 < s.arg0.toNat
  · exact ⟨_, _, exec_bchVer_of_gt h, .refused (by decide)⟩
  · exact ⟨_, _, exec_bchVer_of_le (Nat.not_lt.mp h), .result (by decide) _⟩

theorem maskBit_endsOf : EndsOf .maskBit s := by
  by_cases hidx : 255 < s.arg1.toNat ∨ 255 < s.arg2.toNat
  · exact ⟨_, _, exec_maskBit_of_index hidx, .refused (by decide)⟩
  by_cases hm : 7 < s.arg0.toNat
  · exact ⟨_, _, exec_maskBit_of_mask (by omega) (by omega) hm,
      .refused (by decide)⟩
  · exact ⟨_, _, exec_maskBit_of_le (by omega) (by omega) (by omega), .result (by decide) _⟩

theorem penalty_endsOf : EndsOf .penalty s := by
  by_cases h : s.gridState = .empty
  · exact ⟨_, _, exec_penalty_of_empty h, .refused (by decide)⟩
  · exact ⟨_, _, exec_penalty_of_held h, .penalty _ _⟩

theorem isDark_endsOf : EndsOf .isDark s := by
  by_cases h : s.ReadsCell
  · exact ⟨_, _, exec_isDark_of_reads h, .result (by decide) _⟩
  · exact ⟨_, _, exec_isDark_of_not_reads h, .refused (by decide)⟩

theorem encode_endsOf : EndsOf .encode s := by
  rcases encodeSymbol_cases s with ⟨e, he, hcode⟩ | ⟨segs, v, a, hv1, hv, -, hbits, hcws, he⟩
  · exact ⟨_, _, exec_encode_of_error he, .discarded hcode⟩
  · exact ⟨_, _, exec_encode_of_ok he, .encode hv1 hv hbits hcws⟩

end

/-- Every command ends in one of the ways of `Ends`. -/
theorem exec_endsOf (i : Instr) (s : State) : EndsOf i s := by
  cases i with
  | nop => exact ⟨_, _, exec_nop s, .nop⟩
  | sreset => exact ⟨_, _, exec_sreset s, .sreset⟩
  | gfExp => exact ⟨s.setRes0 ((gfExp s.arg0.toInt).setWidth 32), _, exec_gfExp s, .result (by decide) _⟩
  | gfLog => exact gfLog_endsOf s
  | polyMul d a b =>
    exact endsOf_of_polyEnds (d := d) rfl rfl (by simp [Refuses, Instr.errors]) (polyMulResult_ends (a := a) (b := b))
  | polyMod d a b =>
    exact endsOf_of_polyEnds (d := d) rfl rfl (by simp [Refuses, Instr.errors]) (polyModResult_ends (a := a) (b := b))
  | polyGen d => exact endsOf_of_polyEnds (d := d) rfl rfl (by simp [Refuses, Instr.errors]) polyGenResult_ends
  | rsEcc d a => exact endsOf_of_polyEnds (d := d) rfl rfl (by simp [Refuses, Instr.errors]) (rsEccResult_ends (a := a))
  | bbClear => exact ⟨_, _, exec_bbClear s, .bbClear⟩
  | bbPut => exact bbPut_endsOf s
  | segWrite => exact segWrite_endsOf s
  | build => exact build_endsOf s
  | bchFmt => exact bchFmt_endsOf s
  | bchVer => exact bchVer_endsOf s
  | maskBit => exact maskBit_endsOf s
  | penalty => exact penalty_endsOf s
  | encode => exact encode_endsOf s
  | isDark => exact isDark_endsOf s

/-- The way a command ended, from the state it left. -/
theorem ends_of_exec {i : Instr} {s t : State} (h : exec i s = .next t) : ∃ u e, t = u.complete e ∧ Ends s i u e := by
  obtain ⟨u, e, hexec, hends⟩ := exec_endsOf i s
  rw [hexec] at h
  injection h with h
  exact ⟨u, e, h.symm, hends⟩

theorem Ends.mem_errors {s u : State} {i : Instr} {e : ErrCode} (h : Ends s i u e) : e ∈ Instr.errors i := by
  cases h with
  | refused h => exact h.1
  | result hi _ =>
    revert i
    decide
  | poly hd _ => cases i with
    | polyMul | polyMod | polyGen | rsEcc => exact List.mem_cons_self
    | _ => cases hd
  | discarded he => rcases he with ⟨h, -⟩ | h | h <;> simp [h, Instr.errors]
  | _ => decide

end Sys2Proof.Machine
end

section
/-! PROOFS. All commands (60_exceptions.md, 10_state.md R57): O6, O14, O55 to O57. -/

namespace Sys2Proof.Machine

/-! ## Completion and error codes -/

/-- Settles O6: the cases of `Ends`, and of a step. -/
theorem everyCommandCompletes : Obligations.EveryCommandCompletes := by
  have hexec : ∀ (i : Instr) (s : State), ∃ t, exec i s = .next t ∧ t.seq = .idle ∧ t.done = true ∧
      t.err ∈ Instr.errors i := fun i s => by
    obtain ⟨u, e, hexec, hends⟩ := exec_endsOf i s
    exact ⟨_, hexec, rfl, rfl, hends.mem_errors⟩
  refine ⟨hexec, fun s => ?_⟩
  rcases step_cases s with ⟨-, h⟩ | ⟨w, n, -, -, -, h⟩ | ⟨w, n, e, rest, -, -, -, h⟩ | ⟨-, -, -, h⟩ |
    ⟨e, rest, -, -, -, h⟩
  · exact ⟨_, h⟩
  · cases hw : decode w with
    | ok i =>
      obtain ⟨t, ht, -⟩ := hexec i s
      exact ⟨t, by rw [h, runCommand_ok hw, ht]⟩
    | error x => exact ⟨_, by rw [h, runCommand_error hw]⟩
  · exact ⟨_, h⟩
  · exact ⟨_, h⟩
  · exact ⟨_, h⟩

/-- Settles O55: the codes of `Ends`. -/
theorem commandsRaiseOnlyTheirErrors : Obligations.CommandsRaiseOnlyTheirErrors := by
  intro i s t h
  obtain ⟨u, e, rfl, hends⟩ := ends_of_exec h
  have hmem := hends.mem_errors
  cases i <;> exact hmem

/-- What `fail` of ENCODE leaves, RES0 and RES1 apart (R352). -/
theorem State.dropGrid_setRes?_complete (s : State) (x y : Option Word) (e : ErrCode) :
    ((s.dropGrid.setRes0? x).setRes1? y).complete e = { s with
      grid := [], gridState := .empty, moduleCount := 0#8, symVersion := 0#6, symMask := 0#3, symEcl := 0#2
      res0 := x.getD s.res0, res1 := y.getD s.res1, seq := .idle, done := true, err := e } := by
  cases x <;> cases y <;> rfl

/-- Settles O56: the three ways to end with an error. -/
theorem failingCommandsChangeOnlyWhatTheirErrorNames : Obligations.FailingCommandsChangeOnlyWhatTheirErrorNames := by
  intro i s t h herr
  obtain ⟨u, e, rfl, hends⟩ := ends_of_exec h
  cases hends with
  | refused h =>
    obtain ⟨-, -, h1, hi⟩ := h
    exact ⟨fun _ _ => rfl, fun _ hc => absurd hc h1, fun hc => absurd hc hi⟩
  | invalidText x y => exact ⟨fun _ hc => absurd rfl hc, fun _ _ => ⟨rfl, rfl⟩, nofun⟩
  | @discarded e he =>
    refine ⟨fun hc => absurd rfl hc, fun hc => absurd rfl hc, fun _ => ?_⟩
    rw [State.dropGrid_setRes?_complete]
    refine ⟨rfl, fun hbad => ?_, fun hlarge => ?_⟩
    · rcases he with ⟨-, hr⟩ | hcode | rfl
      · simp [hr]
      · cases hcode.symm.trans hbad
      · cases hbad
    · rcases he with ⟨hcode, -⟩ | hcode | rfl
      · cases hcode.symm.trans hlarge
      · cases hcode.symm.trans hlarge
      · exact ⟨rfl, rfl⟩
  | _ => exact absurd rfl herr

/-! ## Flags (R57) -/

/-- The flags replaced. -/
def State.withFlags (s : State) (d o : Bool) (e : ErrCode) : State := { s with done := d, overrun := o, err := e }

/-- An outcome with OVERRUN replaced. -/
def keepOverrun (o : Bool) : Host.Outcome State Fault Refusal → Host.Outcome State Fault Refusal
  | .next t => .next { t with overrun := o }
  | r => r

section
variable (s : State) (d o : Bool) (e : ErrCode)

theorem finishPoly_withFlags (k : PReg) (r : Except ErrCode (List Byte)) :
    finishPoly k r (s.withFlags d o e) = keepOverrun o (finishPoly k r s) := by
  cases r with
  | error _ => rfl
  | ok p => cases k <;> rfl

theorem readSegments_withFlags (k n : Nat) : readSegments (s.withFlags d o e) k n = readSegments s k n := by
  induction n generalizing k with
  | zero => rfl
  | succ n ih =>
    unfold readSegments
    rw [ih]
    rfl

theorem encodeSymbol_withFlags : encodeSymbol (s.withFlags d o e) = encodeSymbol s := by
  have hargs : encodeArguments (s.withFlags d o e) = encodeArguments s := by
    unfold encodeArguments
    rw [readSegments_withFlags]
    rfl
  unfold encodeSymbol
  rw [hargs]
  rfl

theorem exec_gfLog_withFlags : exec .gfLog (s.withFlags d o e) = keepOverrun o (exec .gfLog s) := by
  cases h : gfLog s.arg0.toInt with
  | error _ =>
    rw [exec_gfLog_of_error h, exec_gfLog_of_error (s := s.withFlags d o e) h]
    rfl
  | ok _ =>
    rw [exec_gfLog_of_ok h, exec_gfLog_of_ok (s := s.withFlags d o e) h]
    rfl

theorem exec_segWrite_withFlags : exec .segWrite (s.withFlags d o e) = keepOverrun o (exec .segWrite s) := by
  cases hop : s.segWriteOperand with
  | none =>
    rw [exec_segWrite_of_none hop, exec_segWrite_of_none (s := s.withFlags d o e) hop]
    rfl
  | some g =>
    cases hbad : g.firstBad with
    | some j =>
      rw [exec_segWrite_of_firstBad hop hbad, exec_segWrite_of_firstBad (s := s.withFlags d o e) hop hbad]
      rfl
    | none =>
      have hv := Segment.firstBad_eq_none_iff.mp hbad
      rw [exec_segWrite_of_valid hop hv, exec_segWrite_of_valid (s := s.withFlags d o e) hop hv]
      simp only [apply_ite (keepOverrun o)]
      rfl

theorem exec_encode_withFlags : exec .encode (s.withFlags d o e) = keepOverrun o (exec .encode s) := by
  have hsym := encodeSymbol_withFlags s d o e
  cases h : encodeSymbol s with
  | error x =>
    rw [exec_encode_of_error h, exec_encode_of_error (hsym.trans h), State.dropGrid_setRes?_complete,
      State.dropGrid_setRes?_complete]
    rfl
  | ok x =>
    rw [exec_encode_of_ok h, exec_encode_of_ok (hsym.trans h), State.commitSymbol_complete,
      State.commitSymbol_complete]
    rfl

theorem exec_withFlags (i : Instr) (hi : i ≠ .sreset) :
    exec i (s.withFlags d o e) = keepOverrun o (exec i s) := by
  cases i with
  | nop | bbClear | gfExp => rfl
  | sreset => exact absurd rfl hi
  | gfLog => exact exec_gfLog_withFlags s d o e
  | polyMul k a b => exact finishPoly_withFlags s d o e k (polyMulResult a b s)
  | polyMod k a b => exact finishPoly_withFlags s d o e k (polyModResult a b s)
  | polyGen k => exact finishPoly_withFlags s d o e k (polyGenResult s)
  | rsEcc k a => exact finishPoly_withFlags s d o e k (rsEccResult a s)
  | bbPut =>
    simp only [exec, execBbPut, apply_ite (keepOverrun o)]
    rfl
  | segWrite => exact exec_segWrite_withFlags s d o e
  | build =>
    simp only [exec, execBuild, apply_ite (keepOverrun o)]
    rfl
  | bchFmt =>
    simp only [exec, execBchFmt, apply_ite (keepOverrun o)]
    rfl
  | bchVer =>
    simp only [exec, execBchVer, apply_ite (keepOverrun o)]
    rfl
  | maskBit =>
    simp only [exec, execMaskBit, apply_ite (keepOverrun o)]
    rfl
  | penalty =>
    simp only [exec, execPenalty, apply_ite (keepOverrun o)]
    rfl
  | encode => exact exec_encode_withFlags s d o e
  | isDark =>
    simp only [exec, execIsDark, apply_ite (keepOverrun o)]
    rfl

end

/-- Settles O14: the branches of each command depend on no flag. -/
theorem commandsIgnoreTheFlags : Obligations.CommandsIgnoreTheFlags := by
  intro i s t d o e h
  by_cases hi : i = .sreset
  · subst hi
    rw [exec_sreset] at h
    injection h with h
    subst h
    rfl
  · rw [if_neg hi]
    refine (exec_withFlags s d o e i hi).trans ?_
    rw [h]
    rfl

end Sys2Proof.Machine
end

section
/-! PROOFS. The frame of all commands: O57. -/

namespace Sys2Proof.Machine

section
variable {s u : State} {i : Instr} {e : ErrCode}

/-! ## What an ended command kept, register by register -/

theorem Ends.host_fields (h : Ends s i u e) :
    u.rst = s.rst ∧ u.bus = s.bus ∧ u.resp = s.resp ∧ u.latency = s.latency ∧ u.draws = s.draws := by
  cases h with
  | @discarded x => cases x.res0 <;> cases x.res1 <;> exact ⟨rfl, rfl, rfl, rfl, rfl⟩
  | @poly _ d => cases d <;> exact ⟨rfl, rfl, rfl, rfl, rfl⟩
  | build | encode => simp [State.commitSymbol]
  | _ => exact ⟨rfl, rfl, rfl, rfl, rfl⟩

theorem Ends.operands (h : Ends s i u e) (hi : i ≠ .sreset) :
    u.ie = s.ie ∧ u.overrun = s.overrun ∧ u.arg0 = s.arg0 ∧ u.arg1 = s.arg1 ∧ u.arg2 = s.arg2 ∧
      u.cfgEcl = s.cfgEcl ∧ u.cfgVersion = s.cfgVersion ∧ u.segCount = s.segCount := by
  cases h with
  | sreset => exact absurd rfl hi
  | @discarded x => cases x.res0 <;> cases x.res1 <;> exact ⟨rfl, rfl, rfl, rfl, rfl, rfl, rfl, rfl⟩
  | @poly _ d => cases d <;> exact ⟨rfl, rfl, rfl, rfl, rfl, rfl, rfl, rfl⟩
  | build | encode => simp [State.commitSymbol]
  | _ => exact ⟨rfl, rfl, rfl, rfl, rfl, rfl, rfl, rfl⟩

theorem Ends.grid_registers (h : Ends s i u e) (hi : i ∉ [.sreset, .build, .encode]) :
    u.grid = s.grid ∧ u.gridState = s.gridState ∧ u.moduleCount = s.moduleCount ∧ u.symVersion = s.symVersion ∧
      u.symMask = s.symMask ∧ u.symEcl = s.symEcl := by
  cases h with
  | sreset | build | encode | discarded => exact absurd (by decide) hi
  | @poly _ d => cases d <;> exact ⟨rfl, rfl, rfl, rfl, rfl, rfl⟩
  | _ => exact ⟨rfl, rfl, rfl, rfl, rfl, rfl⟩

theorem Ends.bb_prefix (h : Ends s i u e) (hi : i ∉ [.sreset, .bbClear, .encode]) : ∃ b, u.bb = s.bb ++ b := by
  cases h with
  | sreset | bbClear | encode | discarded => exact absurd (by decide) hi
  | build => exact ⟨[], by simp⟩
  | @bbPut bits => exact ⟨bits, rfl⟩
  | @segWrite bits => exact ⟨bits, rfl⟩
  | @poly _ d => exact ⟨[], by simp⟩
  | _ => exact ⟨[], (List.append_nil _).symm⟩

theorem Ends.bb (h : Ends s i u e) (hi : i ∉ [.sreset, .bbClear, .bbPut, .segWrite, .encode]) : u.bb = s.bb := by
  cases h with
  | sreset | bbClear | bbPut | segWrite | encode | discarded | invalidText => exact absurd (by decide) hi
  | @poly _ d => cases d <;> rfl
  | _ => rfl

theorem Ends.cwLen (h : Ends s i u e) (hi : i ∉ [.sreset, .encode]) : u.cwLen = s.cwLen := by
  cases h with
  | sreset | encode | discarded => exact absurd (by decide) hi
  | @poly _ d => cases d <;> rfl
  | _ => rfl

theorem Ends.res0 (h : Ends s i u e)
    (hi : i ∉ [.sreset, .gfExp, .gfLog, .segWrite, .bchFmt, .bchVer, .maskBit, .penalty, .encode, .isDark]) :
    u.res0 = s.res0 := by
  cases h with
  | sreset | encode | discarded | segWrite | invalidText | penalty => exact absurd (by decide) hi
  | result hr =>
    have hsub : resultOnly ⊆
      [.sreset, .gfExp, .gfLog, .segWrite, .bchFmt, .bchVer, .maskBit, .penalty, .encode, .isDark] := by decide
    exact absurd (hsub hr) hi
  | @poly _ d => cases d <;> rfl
  | _ => rfl

theorem Ends.res1 (h : Ends s i u e) (hi : i ∉ [.sreset, .segWrite, .penalty, .encode]) : u.res1 = s.res1 := by
  cases h with
  | sreset | encode | discarded | segWrite | invalidText | penalty => exact absurd (by decide) hi
  | @poly _ d => cases d <;> rfl
  | _ => rfl

theorem Ends.plen (h : Ends s i u e) {k : PReg} (hi : i ≠ .sreset) (hk : i.regs.head? ≠ some k) :
    u.plen k = s.plen k := by
  cases h with
  | sreset => exact absurd rfl hi
  | @poly _ d _ hd => rw [State.plen_writePoly, if_neg fun hdk : d = k => hk (hdk ▸ hd)]
  | @discarded x => cases x.res0 <;> cases x.res1 <;> cases k <;> rfl
  | build | encode => cases k <;> simp [State.commitSymbol, State.plen]
  | _ => cases k <;> rfl

/-- Only the destination of a polynomial command and the codewords of ENCODE are written to the windows. -/
theorem Ends.read (hm : s.MemoryCanonical) (h : Ends s i u e) {x : Nat}
    (hp : ∀ d, i.regs.head? = some d → ∀ k < 256, x ≠ prAddr d k) (hc : i = .encode → ∀ k < 3706, x ≠ cwAddr k) :
    u.mem.read x = s.mem.read x := by
  cases h with
  | @poly _ d p hd hlen => exact (writePoly_read hm d hlen).2 x fun k hk => hp d hd k (by omega)
  | @encode v m bits cws _ _ _ hcws =>
    exact (writeCodewords_read hm hcws).2 x fun k hk => hc rfl k (by omega)
  | @discarded x => cases x.res0 <;> cases x.res1 <;> rfl
  | _ => rfl

end

/-! ## The places of the windows -/

theorem prAddr_bounds (d : PReg) {k : Nat} (hk : k < 256) : 0x01000 ≤ prAddr d k ∧ prAddr d k < 0x02000 := by
  have : PReg.index d ≤ 3 := by cases d <;> decide
  unfold prAddr
  omega

theorem PReg.index_injective : Function.Injective PReg.index := by
  intro d d' h
  cases d <;> cases d' <;> cases h <;> rfl

theorem prAddr_ne_of_ne {d d' : PReg} (h : d ≠ d') {k j : Nat} (hk : k < 256) (hj : j < 256) :
    prAddr d k ≠ prAddr d' j := by
  have : PReg.index d ≠ PReg.index d' := fun hindex => h (PReg.index_injective hindex)
  unfold prAddr
  omega

theorem cwAddr_bounds {k : Nat} (hk : k < 3706) : 0x08000 ≤ cwAddr k ∧ cwAddr k < 0x0B9E8 := by
  unfold cwAddr
  omega

/-- Settles O57: the frame facts of `Ends`, and completion keeps every field they name. -/
theorem commandsKeepWhatTheyDoNotWrite : Obligations.CommandsKeepWhatTheyDoNotWrite := by
  intro i s t hm h
  obtain ⟨u, e, rfl, hends⟩ := ends_of_exec h
  refine ⟨hends.host_fields, hends.operands, hends.grid_registers, hends.bb, hends.bb_prefix, hends.cwLen, hends.res0,
    hends.res1, fun k hi hk => (State.plen_complete _ _ _).trans (hends.plen hi hk), fun k j hj hk => ?_,
    fun j hj hi => ?_, fun x hx => ?_⟩
  · refine hends.read hm (fun d hd k' hk' => ?_) fun _ k' hk' => ?_
    · exact prAddr_ne_of_ne (fun hkd : k = d => hk (hkd ▸ hd)) hj hk'
    · have := prAddr_bounds k hj
      have := cwAddr_bounds hk'
      omega
  · refine hends.read hm (fun d _ k' hk' => ?_) fun hc => absurd hc hi
    have := prAddr_bounds d hk'
    have := cwAddr_bounds hj
    omega
  · refine hends.read hm (fun d _ k' hk' => ?_) fun _ k' hk' => ?_
    · have := prAddr_bounds d hk'
      omega
    · have := cwAddr_bounds hk'
      omega

end Sys2Proof.Machine
end

section
/-! SUPPORT. What a step does to the grid with its registers, to the buffer and to the windows. -/

namespace Sys2Proof.Machine

/-! ## States the invariants agree on -/

/-- The grid with its registers. -/
def State.gridPart (s : State) : Grid × GridState × BitVec 8 × BitVec 6 × BitVec 3 × BitVec 2 :=
  (s.grid, s.gridState, s.moduleCount, s.symVersion, s.symMask, s.symEcl)

/-- No grid is held. -/
def emptyGrid : Grid × GridState × BitVec 8 × BitVec 6 × BitVec 3 × BitVec 2 := ([], .empty, 0#8, 0#6, 0#3, 0#2)

/-- A built grid of version v is held. -/
def builtGrid (v : Nat) (eb : BitVec 2) (cws : List Byte) (m : Nat) (test : Bool) (st : GridState) :
    Grid × GridState × BitVec 8 × BitVec 6 × BitVec 3 × BitVec 2 :=
  (buildGrid v eb cws m test, st, BitVec.ofNat 8 (4 * v + 17), BitVec.ofNat 6 v, BitVec.ofNat 3 m, eb)

section
variable {s t : State}

theorem gridRegisters_of_gridPart_eq (h : t.gridPart = s.gridPart) (hs : s.GridRegisters) : t.GridRegisters := by
  simp only [State.gridPart, Prod.mk.injEq] at h
  obtain ⟨h1, h2, h3, h4, h5, h6⟩ := h
  unfold State.GridRegisters
  rw [h1, h2, h3, h4, h5, h6]
  exact hs

theorem gridResolved_of_gridPart_eq (h : t.gridPart = s.gridPart) (hs : s.GridResolved) : t.GridResolved := by
  simp only [State.gridPart, Prod.mk.injEq] at h
  obtain ⟨h1, h2, h3, -⟩ := h
  unfold State.GridResolved
  rw [h1, h2, h3]
  exact hs

theorem gridRegisters_of_empty (h : s.gridPart = emptyGrid) : s.GridRegisters := by
  simp only [State.gridPart, emptyGrid, Prod.mk.injEq] at h
  obtain ⟨h1, h2, h3, h4, h5, h6⟩ := h
  exact ⟨fun _ => ⟨h1, h3, h4, h5, h6⟩, fun hc => absurd h2 hc⟩

theorem gridResolved_of_empty (h : s.gridPart = emptyGrid) : s.GridResolved :=
  fun hc => absurd (congrArg (fun p => p.2.1) h) hc

variable {v m : Nat} {eb : BitVec 2} {cws : List Byte} {test : Bool} {st : GridState}

theorem gridRegisters_of_built (hv1 : 1 ≤ v) (hv : v ≤ 40) (hst : st ≠ .empty)
    (h : s.gridPart = builtGrid v eb cws m test st) : s.GridRegisters := by
  simp only [State.gridPart, builtGrid, Prod.mk.injEq] at h
  obtain ⟨-, h2, h3, h4, -, -⟩ := h
  have hver : s.symVersion.toNat = v := by rw [h4, BitVec.toNat_ofNat]; omega
  have hcount : s.moduleCount.toNat = 4 * v + 17 := by rw [h3, BitVec.toNat_ofNat]; omega
  refine ⟨fun hc => absurd (h2.symm.trans hc) hst, fun _ => ?_⟩
  rw [hver, hcount]
  exact ⟨hv1, hv, rfl⟩

theorem resolved_buildGrid (hv1 : 1 ≤ v) (hv : v ≤ 40) :
    Grid.resolved (4 * v + 17) (buildGrid v eb cws m test) = true := by
  obtain ⟨hrows, hcols⟩ := square_buildGrid hv1 hv eb cws m test
  simp only [Grid.resolved, Bool.and_eq_true, beq_iff_eq, List.all_eq_true, bne_iff_ne]
  refine ⟨hrows, fun row hrow => ⟨hcols row hrow, fun x hx => ?_⟩⟩
  obtain ⟨i, hi, rfl⟩ := List.mem_iff_getElem.mp hrow
  obtain ⟨j, hj, rfl⟩ := List.mem_iff_getElem.mp hx
  have hset := buildGrid_ne_unset hv1 hv eb cws m test (i := i) (j := j) (by omega) (by rw [hcols _ hrow] at hj; exact hj)
  simpa [Grid.cell, List.getD, hi, hj] using hset

theorem gridResolved_of_built (hv1 : 1 ≤ v) (hv : v ≤ 40) (h : s.gridPart = builtGrid v eb cws m test st) :
    s.GridResolved := by
  simp only [State.gridPart, builtGrid, Prod.mk.injEq] at h
  obtain ⟨h1, -, h3, -⟩ := h
  intro _
  have hcount : s.moduleCount.toNat = 4 * v + 17 := by rw [h3, BitVec.toNat_ofNat]; omega
  rw [h1, hcount]
  exact resolved_buildGrid hv1 hv

/-- Every register, the buffer and the grid at their reset values. -/
def State.ResetValues (s : State) : Prop := s = { State.reset with
  mem := s.mem, rst := s.rst, bus := s.bus, resp := s.resp, latency := s.latency, draws := s.draws }

theorem State.ResetValues.gridPart (h : s.ResetValues) : s.gridPart = emptyGrid := by
  rw [h]
  rfl

theorem State.ResetValues.inv (h : s.ResetValues) (hm : s.MemoryCanonical) : s.Inv := by
  refine ⟨hm, ?_, gridRegisters_of_empty h.gridPart, ?_, fun hr => ?_⟩
  · rw [h]
    exact Nat.zero_le _
  · rw [h]
    exact nofun
  · rw [← hr]
    exact h

/-- A core held in reset takes the reset values, its windows kept. -/
theorem heldTurn_resetValues (hr : s.rst = true) : s.heldTurn.ResetValues ∧ s.heldTurn.mem = s.mem := by
  obtain ⟨r, h⟩ := heldTurn_registers s hr
  rw [h]
  exact ⟨rfl, rfl⟩

end

/-! ## Host actions -/

/-- What a host action leaves of a core whose reset input is released. -/
structure HostKeeps (s t : State) : Prop where
  rst : t.rst = s.rst
  bb : t.bb = s.bb
  grid : t.gridPart = s.gridPart
  mem : s.MemoryCanonical → t.MemoryCanonical
  cycle : s.CycleFlags → t.CycleFlags

section
variable {s : State}

theorem writeLoc_hostKeeps (s : State) (v : Word) (l : Loc) : HostKeeps s (s.writeLoc v l) := by
  cases l with
  | cmd => exact ⟨rfl, rfl, rfl, id, fun _ _ => ⟨rfl, rfl⟩⟩
  | status => exact ⟨rfl, rfl, rfl, id, fun h hb => ⟨by simp [State.writeLoc, State.clearFlags, (h hb).1], (h hb).2⟩⟩
  | plen k => cases k <;> exact ⟨rfl, rfl, rfl, id, id⟩
  | pr | segMode | cw => exact ⟨rfl, rfl, rfl, fun h => Memory.wf_write h _ _, id⟩
  | segPos | text => exact ⟨rfl, rfl, rfl, fun h => Memory.wf_writeWord h _ _, id⟩
  | _ => exact ⟨rfl, rfl, rfl, id, id⟩

theorem HostKeeps.respond {t : State} (h : HostKeeps s t) (r : BusResp) : HostKeeps s (t.respond r) :=
  ⟨h.rst, h.bb, h.grid, h.mem, h.cycle⟩

theorem hostWrite_hostKeeps (s : State) (a : Addr) (w : Width) (v : Word) : HostKeeps s (s.hostWrite a w v) := by
  unfold State.hostWrite
  split
  · exact ⟨rfl, rfl, rfl, id, id⟩
  · split
    · exact ⟨rfl, rfl, rfl, id, id⟩
    · exact (writeLoc_hostKeeps s v _).respond _

/-- A host action asserts the reset input, or keeps what the invariants speak of. -/
theorem busEvent_cases (hr : s.rst = false) (e : BusEvent) :
    ((s.busEvent e).ResetValues ∧ (s.busEvent e).MemoryCanonical) ∨ HostKeeps s (s.busEvent e) := by
  cases e with
  | read a w =>
    obtain ⟨r, d, h⟩ := s.exists_hostRead_eq a w
    rw [State.busEvent, h]
    exact .inr ⟨rfl, rfl, rfl, id, id⟩
  | write a w v =>
    rw [State.busEvent_write hr]
    exact .inr (hostWrite_hostKeeps s a w v)
  | rstAssert c =>
    rw [State.busEvent_rstAssert hr]
    exact .inl ⟨rfl, Memory.wf_ofCells c⟩
  | rstRelease => exact .inr ⟨hr.symm, rfl, rfl, id, id⟩

end

/-! ## Commands -/

section
variable {s u : State} {i : Instr} {e : ErrCode}

theorem Ends.gridPart_cases (h : Ends s i u e) : u.gridPart = s.gridPart ∨ u.gridPart = emptyGrid ∨
    ∃ v m cws test st, 1 ≤ v ∧ v ≤ 40 ∧ st ≠ .empty ∧ u.gridPart = builtGrid v s.cfgEcl cws m test st := by
  cases h with
  | sreset => exact .inr (.inl rfl)
  | @build v m hv1 hv cws test =>
    exact .inr (.inr ⟨v, m, cws, test, .masked, hv1, hv, by decide, by simp [State.gridPart, builtGrid, State.setGrid]⟩)
  | @encode v m _ cws hv1 hv =>
    exact .inr (.inr ⟨v, m, cws, false, .committed, hv1, hv, by decide,
      by simp [State.gridPart, builtGrid, State.commitSymbol]⟩)
  | @discarded x => cases x.res0 <;> cases x.res1 <;> exact .inr (.inl rfl)
  | @poly _ d => cases d <;> exact .inl rfl
  | _ => exact .inl rfl

theorem Ends.memoryCanonical (h : Ends s i u e) (hm : s.MemoryCanonical) : u.MemoryCanonical := by
  cases h with
  | @poly _ d => rw [State.MemoryCanonical, State.writePoly_mem]; exact Memory.wf_writeList hm _ _ _
  | encode => simp [State.MemoryCanonical, State.commitSymbol, Memory.wf_writeList hm]
  | @discarded x => cases x.res0 <;> cases x.res1 <;> exact hm
  | _ => exact hm

theorem Ends.bufferFits (h : Ends s i u e) (hb : s.BufferFits) : u.BufferFits := by
  cases h with
  | sreset | bbClear => exact Nat.zero_le _
  | bbPut h | segWrite h => simpa [State.BufferFits, Config.bbCap] using h
  | @encode v m bits cws _ _ hbits =>
    simpa [State.BufferFits, State.commitSymbol, State.clearBits, State.setBits, Config.bbCap] using hbits
  | @discarded x => cases x.res0 <;> cases x.res1 <;> exact hb
  | @poly _ d => cases d <;> exact hb
  | _ => exact hb

end

/-- A captured word ends as its command does, or as an illegal word. -/
theorem runCommand_eq_next {w : Word} {s t : State} (h : runCommand w s = .next t) :
    ∃ u e, t = u.complete e ∧ (u = s ∨ ∃ i, Ends s i u e) := by
  cases hw : decode w with
  | ok i =>
    rw [runCommand_ok hw] at h
    obtain ⟨u, e, ht, hends⟩ := ends_of_exec h
    exact ⟨u, e, ht, .inr ⟨i, hends⟩⟩
  | error x =>
    rw [runCommand_error hw] at h
    injection h with h
    exact ⟨s, _, h.symm, .inl rfl⟩

end Sys2Proof.Machine
end

section
/-! PROOFS. The invariants: O58 to O60. -/

namespace Sys2Proof.Machine

section
variable {s t : State}

theorem HostKeeps.inv (h : HostKeeps s t) (hr : s.rst = false) (hs : s.Inv) : t.Inv := by
  obtain ⟨hm, hb, hg, hc, -⟩ := hs
  refine ⟨h.mem hm, ?_, gridRegisters_of_gridPart_eq h.grid hg, h.cycle hc, fun hc => ?_⟩
  · rw [State.BufferFits, h.bb]
    exact hb
  · cases (h.rst.trans hr).symm.trans hc

theorem busEvent_inv (hr : s.rst = false) (hs : s.Inv) (e : BusEvent) : (s.busEvent e).Inv := by
  rcases busEvent_cases hr e with ⟨hreset, hm⟩ | hkeeps
  · exact hreset.inv hm
  · exact hkeeps.inv hr hs

theorem busEvent_gridResolved (hr : s.rst = false) (hs : s.GridResolved) (e : BusEvent) :
    (s.busEvent e).GridResolved := by
  rcases busEvent_cases hr e with ⟨hreset, -⟩ | hkeeps
  · exact gridResolved_of_empty hreset.gridPart
  · exact gridResolved_of_gridPart_eq hkeeps.grid hs

theorem Ends.inv {i : Instr} {e : ErrCode} (h : Ends s i t e) (hr : s.rst = false) (hs : s.Inv) :
    (t.complete e).Inv := by
  obtain ⟨hm, hb, hg, -, -⟩ := hs
  have hrst : (t.complete e).rst = false := h.host_fields.1.trans hr
  have hgrid : t.GridRegisters := by
    rcases h.gridPart_cases with hsame | hempty | ⟨v, m, cws, test, st, hv1, hv, hst, hbuilt⟩
    · exact gridRegisters_of_gridPart_eq hsame hg
    · exact gridRegisters_of_empty hempty
    · exact gridRegisters_of_built hv1 hv hst hbuilt
  exact ⟨h.memoryCanonical hm, h.bufferFits hb, hgrid, nofun, fun hc => by cases hrst.symm.trans hc⟩

theorem Ends.gridResolved {i : Instr} {e : ErrCode} (h : Ends s i t e) (hs : s.GridResolved) : t.GridResolved := by
  rcases h.gridPart_cases with hsame | hempty | ⟨v, m, cws, test, st, hv1, hv, -, hbuilt⟩
  · exact gridResolved_of_gridPart_eq hsame hs
  · exact gridResolved_of_empty hempty
  · exact gridResolved_of_built hv1 hv hbuilt

end

/-- Settles O58: the reset values meet both invariants. -/
theorem resetMeetsTheInvariant : Obligations.ResetMeetsTheInvariant :=
  have h : State.reset.ResetValues := rfl
  ⟨h.inv rfl, gridResolved_of_empty h.gridPart⟩

/-- Settles O59: each kind of step keeps the invariant. -/
theorem stepKeepsTheInvariant : Obligations.StepKeepsTheInvariant := by
  intro s t hs h
  rcases step_cases s with ⟨hr, hstep⟩ | ⟨w, n, hr, -, -, hstep⟩ | ⟨w, n, e, rest, hr, hseq, -, hstep⟩ |
    ⟨-, -, -, hstep⟩ | ⟨e, rest, hr, -, -, hstep⟩ <;> rw [hstep] at h
  · cases h
    obtain ⟨hreset, hmem⟩ := heldTurn_resetValues hr
    exact hreset.inv (by rw [State.MemoryCanonical, hmem]; exact hs.1)
  · obtain ⟨u, e, rfl, rfl | ⟨i, hends⟩⟩ := runCommand_eq_next h
    · obtain ⟨hm, hb, hg, -, -⟩ := hs
      exact ⟨hm, hb, hg, nofun, fun hc => by cases hr.symm.trans hc⟩
    · exact hends.inv hr hs
  · cases h
    obtain ⟨hm, hb, hg, hc, -⟩ := hs
    have hbusy : s.busy = true := by simp [State.busy, hseq]
    exact busEvent_inv (s := { s with bus := rest, seq := .busy w n }) hr
      ⟨hm, hb, hg, fun _ => hc hbusy, fun hc => by cases hr.symm.trans hc⟩ e
  · cases h
    exact hs
  · cases h
    obtain ⟨hm, hb, hg, hc, -⟩ := hs
    exact busEvent_inv (s := { s with bus := rest }) hr ⟨hm, hb, hg, hc, fun hc => by cases hr.symm.trans hc⟩ e

/-- Settles O60: the grid is kept, dropped, or a built grid, which is resolved (O40). -/
theorem stepKeepsTheGridResolved : Obligations.StepKeepsTheGridResolved := by
  intro s t hs h
  rcases step_cases s with ⟨hr, hstep⟩ | ⟨w, n, -, -, -, hstep⟩ | ⟨w, n, e, rest, hr, -, -, hstep⟩ |
    ⟨-, -, -, hstep⟩ | ⟨e, rest, hr, -, -, hstep⟩ <;> rw [hstep] at h
  · cases h
    exact gridResolved_of_empty (heldTurn_resetValues hr).1.gridPart
  · obtain ⟨u, e, rfl, rfl | ⟨i, hends⟩⟩ := runCommand_eq_next h
    · exact hs
    · exact hends.gridResolved hs
  · cases h
    exact busEvent_gridResolved (s := { s with bus := rest, seq := .busy w n }) hr hs e
  · cases h
    exact hs
  · cases h
    exact busEvent_gridResolved (s := { s with bus := rest }) hr hs e

end Sys2Proof.Machine
end
